-- ==== Sys2Proof/Word.lean ====
section
/-! DEFINITION. The word types of the NEMESIS core and their plainest arithmetic (00_scope.md R12, R13). -/

namespace Sys2Proof

/-- An integer in 0..255 (R12): the unit of keys, matrices, the chunk buffer and the byte store. -/
abbrev Byte := BitVec 8

/-- The data of one host transaction, and the width of the widest registers (10_state.md R21). -/
abbrev Word64 := BitVec 64

/-- The low 16 bits of a `CMD` write: the command word (30_encoding.md R90). -/
abbrev CmdWord := BitVec 16

/-- `⌈x/2⌉` for `x ≥ 0` (R13). -/
def ceilHalf (x : Nat) : Nat := (x + 1) / 2

end Sys2Proof
end

