-- ==== Sys2Proof/Config.lean ====
section
/-! DEFINITION. What this implementation fixes (00_scope.md R11) and the free values (20_memory.md R72). -/

namespace Sys2Proof

/-- `LMAX`: the largest key length the key and matrix memories hold (R11, D5). -/
def Config.lmax : Nat := 255

/-- `CHUNK_MAX`: the capacity of the chunk buffer and the largest legal `CHUNK`, 2^20 (R11, D7). -/
def Config.chunkMax : Nat := 1048576

/-- The largest legal `SIZE`, 2^56 - 1 (R11, 10_state.md R25). -/
def Config.sizeMax : Nat := 72057594037927935

/-- The MAC moduli in their fixed order (R11, 45_checksum_mac.md R190). -/
def Config.macModuli : Nat × Nat × Nat × Nat := (233, 239, 241, 251)

/-- FREE VALUE (assumption 2, DESIGN CHOICE). Whether the store serves its access number `n` when the state lists no
answer for it: "Whether a given `MemRead` or `MemWrite` fails is decided by the store" (20_memory.md R72). -/
opaque Config.storeServesAccess : Nat → Bool

/-- FREE VALUE (assumption 3, DESIGN CHOICE). The byte that the failed write numbered `n` leaves at an offset of its
range: "each may hold its old value, the new value, or anything else" (20_memory.md R72, U2). -/
opaque Config.lostByte : Nat → Nat → Byte

end Sys2Proof
end

