-- ==== Sys2Proof/Machine/Builder.lean ====
section
/-! DEFINITION. KeystreamMatrixBuilder: the pure function `BuildMatrix(K, K′)` (42_keystream_builder.md R140 to R148). The
accumulator is an exact natural number, as R147 requires; R148 bounds it below 2^32 (assumption 7). -/

namespace Sys2Proof.Machine

/-- Element `i` of a byte sequence as an integer. Every index R142 uses is in range. -/
def byteAt (l : List Byte) (i : Nat) : Nat := (l.getD i 0).toNat

/-- One step of the fold (R144): the index of `K` uses `acc` as it was before the step. -/
def foldStep (K K' : List Byte) (j acc k : Nat) : Nat :=
  acc + byteAt K' k * byteAt K' ((k + j) % K'.length) * byteAt K ((acc + k) % K.length)

/-- The unreduced `acc` of element `j` of row `i` (R142); at `j = 0` the index `p` is the last of `prevRow`, otherwise it
is 0 (R143). -/
def elementAcc (K K' prevRow : List Byte) (i j : Nat) : Nat :=
  let last := K.length - i
  let a := byteAt prevRow j * byteAt prevRow last
  let p := if j = 0 then last else 0
  let b := byteAt prevRow (j + 1) * byteAt prevRow p
  (List.range K'.length).foldl (foldStep K K' j) (a + b)

/-- Row `i` from the row above it (R142, R145): `L - i` elements, each `acc mod 256`. -/
def buildRow (K K' prevRow : List Byte) (i : Nat) : List Byte :=
  (List.range (K.length - i)).map fun j => BitVec.ofNat 8 (elementAcc K K' prevRow i j)

/-- `n` rows from row `i` on, each from the row above it. -/
def generateRows (K K' : List Byte) : Nat → Nat → List Byte → List (List Byte)
  | 0, _, _ => []
  | n + 1, i, prevRow => buildRow K K' prevRow i :: generateRows K K' n (i + 1) (buildRow K K' prevRow i)

/-- Rows `1 .. ⌈L/2⌉` of `BuildMatrix(K, K′)` (R140). -/
def generatedRows (K K' : List Byte) : List (List Byte) := generateRows K K' (ceilHalf K.length) 1 K

/-- `BuildMatrix(K, K′)`: row 0 is the key (R141), then the generated rows. -/
def buildMatrix (K K' : List Byte) : List (List Byte) := K :: generatedRows K K'

end Sys2Proof.Machine
end

