-- ==== Sys2Proof/Syntax.lean ====
section
/-! DEFINITION. The nine commands (30_encoding.md R93), one constructor for each row of spec/opcode_table.json. -/

namespace Sys2Proof

/-- A command. Format `B` commands carry the immediate byte `imm8`, format `Z` commands carry nothing (R91, R92);
every other operand is implicit state. -/
inductive Instr where
  /-- no operation, opcode 0x00 (R201) -/
  | nop
  /-- start a new session, opcode 0x01 (R202) -/
  | sinit
  /-- append a byte to Key1, opcode 0x02 (R128) -/
  | kpush1 (imm8 : Byte)
  /-- append a byte to Key2, opcode 0x03 (R129) -/
  | kpush2 (imm8 : Byte)
  /-- validate the parameters and accept the keys, opcode 0x04 (R130) -/
  | kaccept
  /-- start matrix construction, opcode 0x05 (R149) -/
  | build
  /-- start an encryption pass, opcode 0x06 (R171) -/
  | enc
  /-- start a decryption pass, opcode 0x07 (R172) -/
  | dec
  /-- acknowledge the event flag, opcode 0x08 (R203) -/
  | ack
deriving DecidableEq, Repr

/-- The mnemonic of a command, as R93 spells it. -/
def Instr.mnemonic : Instr → String
  | .nop => "NOP"
  | .sinit => "SINIT"
  | .kpush1 _ => "KPUSH1"
  | .kpush2 _ => "KPUSH2"
  | .kaccept => "KACCEPT"
  | .build => "BUILD"
  | .enc => "ENC"
  | .dec => "DEC"
  | .ack => "ACK"

end Sys2Proof
end

