-- ==== Sys2Proof/WellFormed.lean ====
section
/-! DEFINITION. Which 64-bit data words are commands (30_encoding.md R90 to R94). Every term of `Instr` is well formed,
because its only operand is a byte by its type; what can be ill formed is the word the host writes to `CMD`. -/

namespace Sys2Proof

/-- Bits 7:0, the opcode (R90). -/
def opcodeField (d : Word64) : Byte := d.extractLsb' 0 8

/-- Bits 15:8, the immediate (R90, R92). -/
def imm8Field (d : Word64) : Byte := d.extractLsb' 8 8

/-- Bits 63:16, which must be 0 (R90). -/
def rsvdField (d : Word64) : BitVec 48 := d.extractLsb' 16 48

/-- One row of R93's opcode map. -/
structure OpcodeRow where
  mnemonic : String
  pattern : CmdWord
  mask : CmdWord
deriving DecidableEq, Repr

/-- "a word `w` selects the row iff `w AND mask = match`" (R93). -/
def OpcodeRow.selects (r : OpcodeRow) (w : CmdWord) : Bool := w &&& r.mask == r.pattern

/-- R93's opcode map, in its order. -/
def opcodeMap : List OpcodeRow :=
  [⟨"NOP", 0x0000, 0xFFFF⟩, ⟨"SINIT", 0x0001, 0xFFFF⟩, ⟨"KPUSH1", 0x0002, 0x00FF⟩, ⟨"KPUSH2", 0x0003, 0x00FF⟩,
   ⟨"KACCEPT", 0x0004, 0xFFFF⟩, ⟨"BUILD", 0x0005, 0xFFFF⟩, ⟨"ENC", 0x0006, 0xFFFF⟩, ⟨"DEC", 0x0007, 0xFFFF⟩,
   ⟨"ACK", 0x0008, 0xFFFF⟩]

/-- R94 item 1: the reserved bits are 0. -/
def reservedBitsClear (d : Word64) : Bool := rsvdField d == 0

/-- R94 item 2: the opcode is one of 0x00..0x08. -/
def opcodeKnown (d : Word64) : Bool := decide ((opcodeField d).toNat ≤ 8)

/-- The format `B` opcodes, those of KPUSH1 and KPUSH2 (R91). -/
def opcodeTakesImm (d : Word64) : Bool := opcodeField d == 0x02 || opcodeField d == 0x03

/-- R94 item 3: `imm8` is 0 unless the format is `B`. -/
def immAllowed (d : Word64) : Bool := opcodeTakesImm d || imm8Field d == 0

/-- The three checks of R94 together: `d` is a command. -/
def wordWellFormed (d : Word64) : Bool := reservedBitsClear d && opcodeKnown d && immAllowed d

/-- The same by R93's map: the reserved bits are 0 and some row is selected. -/
def wordInMap (d : Word64) : Bool := reservedBitsClear d && opcodeMap.any (fun r => r.selects (d.extractLsb' 0 16))

end Sys2Proof
end

