-- ==== Sys2Proof/Decode.lean ====
section
/-! DEFINITION. The decoder of 30_encoding.md R95 step 1, total on every 64-bit word, and the encoder. -/

namespace Sys2Proof

/-- Why a word is no command, in R95's order of priority. Raised by the decoder; the machine turns each into the Fatal
entry R94 names, so no run stops on one (safe). -/
inductive IllegalWord where
  /-- bits 63:16 are not 0: sub-cause 2 -/
  | reservedBits
  /-- the opcode is 0x09..0xFF: sub-cause 1 -/
  | unknownOpcode
  /-- a format `Z` opcode with a non-zero `imm8`: sub-cause 2 -/
  | immOnFormatZ
deriving DecidableEq, Repr

/-- A format `Z` command: legal only with `imm8 = 0` (R91, R94 item 3). -/
def decodeFormatZ (i : Instr) (d : Word64) : Except IllegalWord Instr :=
  if imm8Field d = 0 then .ok i else .error .immOnFormatZ

/-- R95 step 1: "`d[63:16] != 0` gives sub 2, else unknown opcode gives sub 1, else nonzero imm8 on format Z gives
sub 2". The phase plays no part in it (R96). -/
def decode (d : Word64) : Except IllegalWord Instr :=
  if rsvdField d = 0 then
    match (opcodeField d).toNat with
    | 0 => decodeFormatZ .nop d
    | 1 => decodeFormatZ .sinit d
    | 2 => .ok (.kpush1 (imm8Field d))
    | 3 => .ok (.kpush2 (imm8Field d))
    | 4 => decodeFormatZ .kaccept d
    | 5 => decodeFormatZ .build d
    | 6 => decodeFormatZ .enc d
    | 7 => decodeFormatZ .dec d
    | 8 => decodeFormatZ .ack d
    | _ => .error .unknownOpcode
  else .error .reservedBits

/-- The 64-bit data with the given `imm8` and opcode and zeros above (R90). -/
def commandData (imm8 opcode : Byte) : Word64 := (imm8 ++ opcode).setWidth 64

/-- The data the host writes to `CMD` for a command (R91, R93). -/
def encode : Instr → Word64
  | .nop => commandData 0 0x00
  | .sinit => commandData 0 0x01
  | .kpush1 b => commandData b 0x02
  | .kpush2 b => commandData b 0x03
  | .kaccept => commandData 0 0x04
  | .build => commandData 0 0x05
  | .enc => commandData 0 0x06
  | .dec => commandData 0 0x07
  | .ack => commandData 0 0x08

/-- The 64-bit data of a table word of `nbits` bits: every bit above them is 0. -/
def tableData (nbits w : Nat) : Word64 := BitVec.ofNat 64 (w % 2 ^ nbits)

/-- The command the decoder reads from a word of spec/opcode_table.json. -/
def decodeTableWord (nbits w : Nat) : Option Instr :=
  match decode (tableData nbits w) with
  | .ok i => some i
  | .error _ => none

end Sys2Proof
end

