-- ==== Sys2Proof/Machine/State.lean ====
section
/-! DEFINITION. The state of the NEMESIS core (10_state.md R20), of the byte store and of the host beside it, as plain
data, and its value after reset (R44). -/

namespace Sys2Proof.Machine

/-- `STATUS.PHASE` (R26). The values 5 and 6 are never held and have no constructor (U7). -/
inductive Phase where
  | init
  | keysAccepted
  | matricesBuilt
  | streaming
  | finalized
  | fatal
deriving DecidableEq, Repr

/-- `SSTEP`, the streaming sub-step (R38): FETCH = 0, XFORM = 1, WBACK = 2. -/
inductive SStep where
  | fetch
  | xform
  | wback
deriving DecidableEq, Repr

/-- The causes of a Fatal entry: the rows of 60_exceptions.md R221. -/
inductive Cause where
  /-- InvalidKey 1: Key1 has length 0 -/
  | key1Empty
  /-- InvalidKey 2: Key2 has length 0 -/
  | key2Empty
  /-- InvalidKey 3: Key1 below the advisor's minimum, `ENFORCE = 1` -/
  | key1Short
  /-- InvalidKey 4: Key2 below the advisor's minimum, `ENFORCE = 1` -/
  | key2Short
  /-- InvalidKey 5: a 256th byte pushed to Key1 -/
  | key1Full
  /-- InvalidKey 6: a 256th byte pushed to Key2 -/
  | key2Full
  /-- StoreAccessFailure 1: `MemRead` answered fail -/
  | readFailed
  /-- StoreAccessFailure 2: `MemWrite` answered fail -/
  | writeFailed
  /-- ArithmeticInvariantViolation, reserved and never raised (R224) -/
  | arithmeticInvariant
  /-- InvalidSize 1: `SIZE` out of range -/
  | sizeIllegal
  /-- InvalidSize 2: `CHUNK` out of range -/
  | chunkIllegal
  /-- IllegalCommand 1: unknown opcode -/
  | unknownOpcode
  /-- IllegalCommand 2: reserved bits set -/
  | reservedBits
  /-- IllegalCommand 3: a well-formed command in a phase where it is not legal -/
  | wrongPhase
deriving DecidableEq, Repr

/-- The registers of the host port (10_state.md R21). -/
inductive Reg where
  | cmd
  | status
  | ctrl
  | size
  | chunk
  | klen1
  | klen2
  | minklen
  | strength
  | pos
  | csum
  | mac0
  | mac1
  | mac2
  | mac3
  | err
  | errinfo
deriving DecidableEq, Repr

/-- What the port answers (20_memory.md R60). A write's OK carries no meaningful data, so it carries none here. -/
inductive Answer where
  /-- `(OK, data)` of a read -/
  | value (data : Word64)
  /-- `OK` of a write -/
  | done
  /-- `ERR` -/
  | err
deriving DecidableEq, Repr

/-- What the store answers to one range access (20_memory.md R68, R69). -/
inductive StoreReply where
  | ok
  | fail
deriving DecidableEq, Repr

/-- What the host does between two core steps (00_scope.md R9). A list of these is this hardware's program (R10). -/
inductive HostMove where
  /-- `HostRead(r)` (R60) -/
  | read (r : Byte)
  /-- `HostWrite(r, d)` (R60) -/
  | write (r : Byte) (d : Word64)
  /-- a pulse on the wire `rst` (70_reset_and_hazards.md R250) -/
  | rst
  /-- the host makes the byte store hold `data`, of length `size()` (R253 step 3) -/
  | supply (data : List Byte)
  /-- the host does nothing, so that the core takes its step if it has one -/
  | yield
deriving DecidableEq, Repr

/-- A sparse byte memory: (address, byte) pairs with rising addresses; an unlisted address reads 0 and no pair holds 0
(`Memory.wf`). The byte store, `M1`, `M2` and `BUF` are each one of these. -/
abbrev Memory := List Host.Cell

/-- The machine: the core's registers and memories (R20), then what stands outside the core. -/
structure State where
  /-- `STATUS.PHASE` (R26) -/
  phase : Phase
  /-- `STATUS.BUSY` (R27) -/
  busy : Bool
  /-- `STATUS.EVT` (R28) -/
  evt : Bool
  /-- `STATUS.DIR`: true is decrypt (R28) -/
  dir : Bool
  /-- `CTRL.IE` (R24) -/
  ie : Bool
  /-- `CTRL.ENFORCE` (R24) -/
  enforce : Bool
  /-- `SIZE` (R25) -/
  size : Word64
  /-- `CHUNK` (R25) -/
  chunk : Word64
  /-- `KLEN1` (R29) -/
  klen1 : Byte
  /-- `KLEN2` (R29) -/
  klen2 : Byte
  /-- `STRENGTH` (R31) -/
  strength : BitVec 16
  /-- `POS` (R32) -/
  pos : Word64
  /-- `CSUM` (R33) -/
  csum : Word64
  /-- `MAC0` (R34) -/
  mac0 : Byte
  /-- `MAC1` (R34) -/
  mac1 : Byte
  /-- `MAC2` (R34) -/
  mac2 : Byte
  /-- `MAC3` (R34) -/
  mac3 : Byte
  /-- `ERR`: `CODE` in bits 7:0, `SUB` in bits 15:8 (R35) -/
  err : BitVec 16
  /-- `ERRINFO` (R36) -/
  errinfo : Word64
  /-- `M1`, the matrix of Key1, row 0 the key (R39) -/
  m1 : Memory
  /-- `M2`, the matrix of Key2 (R39) -/
  m2 : Memory
  /-- `BUF`, the chunk buffer (R41) -/
  buf : Memory
  /-- `CBASE` (R41) -/
  cbase : Word64
  /-- `CLEN` (R41) -/
  clen : Word64
  /-- `SSTEP` (R38) -/
  sstep : SStep
  /-- the bytes of the byte store (20_memory.md R67) -/
  store : Memory
  /-- the real store's `size()`: offsets `0 .. storeLen - 1` exist (R67, R70) -/
  storeLen : Nat
  /-- the host's coming moves (assumption 1) -/
  host : List HostMove
  /-- the port's answers so far, newest first (assumption 5) -/
  answers : List Answer
  /-- the store's coming answers; past its end they are free values (assumption 2) -/
  tape : List StoreReply
  /-- how many accesses the core has made to the store, the number of the next free value (assumption 2) -/
  draws : Nat
deriving DecidableEq, Repr

/-- Why the machine stops. -/
inductive Fault where
  /-- Raised by `coreStep` when `BUSY = 1` in a phase that R27 gives no core step. R45 item 1 excludes such states, so no
  run reaches it: safe. -/
  | noEnabledStep
deriving DecidableEq, Repr

/-- Why a step has no meaning. -/
inductive Refusal where
  /-- Raised by an arm of `exec` for an instruction without a meaning; no arm does. Safe. -/
  | notModelled (mnemonic : String)
  /-- Raised by `hostMove` when the host would replace the byte store during a pass: "A model gives the host no such
  move" (20_memory.md R77, U4). Safe. -/
  | storeInUse
deriving DecidableEq, Repr

/-- The outcome of one step or one meaning. -/
abbrev Result := Host.Outcome State Fault Refusal

/-- The machine after reset: every register at R44's value, every memory cell 0. Outside the core the spec gives no
value; assumptions 1, 2, 4 and 5 name the ones here. -/
def State.reset : State where
  phase := .init
  busy := false
  evt := false
  dir := false
  ie := false
  enforce := true
  size := 0
  chunk := 1048576
  klen1 := 0
  klen2 := 0
  strength := 0
  pos := 0
  csum := 0
  mac0 := 0
  mac1 := 0
  mac2 := 0
  mac3 := 0
  err := 0
  errinfo := 0
  m1 := []
  m2 := []
  buf := []
  cbase := 0
  clen := 0
  sstep := .fetch
  store := []
  storeLen := 2 ^ 56
  host := []
  answers := []
  tape := []
  draws := 0

end Sys2Proof.Machine
end

