-- ==== Sys2Proof/Machine/Flags.lean ====
section
/-! DEFINITION. The status fields and what is computed from them: `STATUS`, `CTRL`, `ERR` as the host reads them, and the
interrupt output. -/

namespace Sys2Proof.Machine

/-- The encoding of `PHASE` (10_state.md R26). -/
def Phase.bits : Phase → BitVec 3
  | .init => 0
  | .keysAccepted => 1
  | .matricesBuilt => 2
  | .streaming => 3
  | .finalized => 4
  | .fatal => 7

/-- `STATUS`: `PHASE` in bits 2:0, `BUSY` 3, `EVT` 4, `DIR` 5, zeros above (R23). -/
def statusWord (s : State) : Word64 :=
  (BitVec.ofBool s.dir ++ BitVec.ofBool s.evt ++ BitVec.ofBool s.busy ++ s.phase.bits).setWidth 64

/-- `CTRL`: `IE` in bit 0, `ENFORCE` in bit 1, zeros above (R24). -/
def ctrlWord (s : State) : Word64 := (BitVec.ofBool s.enforce ++ BitVec.ofBool s.ie).setWidth 64

/-- `ERR.CODE`, bits 7:0 (R35). -/
def errCode (s : State) : Byte := s.err.extractLsb' 0 8

/-- `ERR.SUB`, bits 15:8 (R35). -/
def errSub (s : State) : Byte := s.err.extractLsb' 8 8

/-- The wire `irq = CTRL.IE ∧ STATUS.EVT` (60_exceptions.md R231). -/
def irq (s : State) : Bool := s.ie && s.evt

/-- `ERR.CODE` of a cause (60_exceptions.md R221). -/
def Cause.code : Cause → Byte
  | .key1Empty | .key2Empty | .key1Short | .key2Short | .key1Full | .key2Full => 1
  | .readFailed | .writeFailed => 2
  | .arithmeticInvariant => 3
  | .sizeIllegal | .chunkIllegal => 4
  | .unknownOpcode | .reservedBits | .wrongPhase => 5

/-- `ERR.SUB` of a cause (60_exceptions.md R221). -/
def Cause.sub : Cause → Byte
  | .arithmeticInvariant => 0
  | .key1Empty | .readFailed | .sizeIllegal | .unknownOpcode => 1
  | .key2Empty | .writeFailed | .chunkIllegal | .reservedBits => 2
  | .key1Short | .wrongPhase => 3
  | .key2Short => 4
  | .key1Full => 5
  | .key2Full => 6

/-- The value `ERR` takes for a cause: `(sub << 8) | code` (60_exceptions.md R226). -/
def Cause.err (c : Cause) : BitVec 16 := c.sub ++ c.code

end Sys2Proof.Machine
end

