-- ==== Sys2Proof/Machine/Operands.lean ====
section
/-! DEFINITION. Operand forms of the host port: register numbers (10_state.md R21) and cells of the matrix memories. The
commands' one operand, `imm8`, is read by the decoder (30_encoding.md R92). -/

namespace Sys2Proof.Machine

/-- The number of a register (R21). -/
def Reg.number : Reg → Byte
  | .cmd => 0
  | .status => 1
  | .ctrl => 2
  | .size => 3
  | .chunk => 4
  | .klen1 => 5
  | .klen2 => 6
  | .minklen => 7
  | .strength => 8
  | .pos => 9
  | .csum => 10
  | .mac0 => 11
  | .mac1 => 12
  | .mac2 => 13
  | .mac3 => 14
  | .err => 15
  | .errinfo => 16

/-- The register a number names; none for 17..255, which are not implemented (R21, 20_memory.md R62). -/
def Reg.ofNumber (n : Byte) : Option Reg :=
  match n.toNat with
  | 0 => some .cmd
  | 1 => some .status
  | 2 => some .ctrl
  | 3 => some .size
  | 4 => some .chunk
  | 5 => some .klen1
  | 6 => some .klen2
  | 7 => some .minklen
  | 8 => some .strength
  | 9 => some .pos
  | 10 => some .csum
  | 11 => some .mac0
  | 12 => some .mac1
  | 13 => some .mac2
  | 14 => some .mac3
  | 15 => some .err
  | 16 => some .errinfo
  | _ => none

/-- The key of cell (`i`, `j`) of a matrix memory. Every row has at most 255 cells, so rows do not meet (assumption 6). -/
def matrixCell (i j : Nat) : Nat := 256 * i + j

end Sys2Proof.Machine
end

