-- ==== Sys2Proof/Machine/Ops.lean ====
section
/-! DEFINITION. The named operations over memories, registers and the byte store; taking the one exception (Fatal,
60_exceptions.md R226), what ends it (SINIT and reset, R229), and the gate every command passes (30_encoding.md R95). -/

namespace Sys2Proof.Machine

/-! ### Memories -/

/-- The byte at address `a`; an unlisted address reads 0. -/
def Memory.read : Memory → Nat → Byte
  | [], _ => 0
  | (b, v) :: m, a => if a = b then v else Memory.read m a

/-- The `n` bytes from address `a` on, in increasing order (20_memory.md R68). -/
def Memory.readRange (m : Memory) (a n : Nat) : List Byte := (List.range n).map fun o => m.read (a + o)

/-- The pairs that list `bytes` from address `a` on; a byte 0 needs no pair. -/
def Memory.cells : Nat → List Byte → Memory
  | _, [] => []
  | a, v :: vs => if v = 0 then Memory.cells (a + 1) vs else (a, v) :: Memory.cells (a + 1) vs

/-- Address `a + o` becomes byte `o` of `bytes`, and no other address changes (20_memory.md R69). -/
def Memory.writeRange (m : Memory) (a : Nat) (bytes : List Byte) : Memory :=
  m.filter (fun c => decide (c.1 < a)) ++ Memory.cells a bytes ++
    m.filter (fun c => decide (a + bytes.length ≤ c.1))

/-- Address `a` becomes `v`. -/
def Memory.write (m : Memory) (a : Nat) (v : Byte) : Memory := m.writeRange a [v]

/-- The canonical form: addresses strictly rising, and no pair with the byte an unlisted address reads as. -/
def Memory.wf : Memory → Bool
  | [] => true
  | (a, v) :: m => v != 0 && m.all (fun c => decide (a < c.1)) && Memory.wf m

/-- Cells `0 .. n - 1` of row `i` of a matrix memory (10_state.md R39). -/
def readRow (m : Memory) (i n : Nat) : List Byte := m.readRange (matrixCell i 0) n

/-- Rows `i`, `i + 1`, ... of a matrix memory become `rows`. -/
def storeRows : Memory → Nat → List (List Byte) → Memory
  | m, _, [] => m
  | m, i, row :: rows => storeRows (m.writeRange (matrixCell i 0) row) (i + 1) rows

/-! ### Answers of the port -/

/-- The transaction is answered `a` (20_memory.md R60). -/
def State.reply (a : Answer) (s : State) : State := { s with answers := a :: s.answers }

/-! ### The exception and what ends it -/

/-- `raise Fatal(code, sub, info)` (60_exceptions.md R226): five writes and nothing else. -/
def raiseFatal (c : Cause) (info : Word64) (s : State) : State :=
  { s with err := c.err, errinfo := info, phase := .fatal, busy := false, evt := true }

/-- The writes of SINIT (46_session_control.md R202): every register and memory of the core at its reset value but
`CTRL`. The byte store is not touched. -/
def endSession (s : State) : State :=
  { s with
    m1 := [], m2 := [], buf := []
    klen1 := 0, klen2 := 0, strength := 0
    pos := 0, csum := 0
    mac0 := 0, mac1 := 0, mac2 := 0, mac3 := 0
    err := 0, errinfo := 0
    cbase := 0, clen := 0, sstep := .fetch
    size := 0, chunk := 1048576
    dir := false, evt := false, busy := false
    phase := .init }

/-- The transition of the wire `rst` (70_reset_and_hazards.md R250): SINIT's writes and `CTRL <- 0x02`. -/
def hardReset (s : State) : State := { endSession s with ie := false, enforce := true }

/-! ### The gate of the commands -/

/-- The phases in which a command is legal (30_encoding.md R93, 46_session_control.md R206). -/
def legalIn : Instr → Phase → Bool
  | .nop, _ => true
  | .sinit, _ => true
  | .ack, _ => true
  | .kpush1 _, p => p == .init
  | .kpush2 _, p => p == .init
  | .kaccept, p => p == .init
  | .build, p => p == .keysAccepted
  | .enc, p => p == .matricesBuilt
  | .dec, p => p == .matricesBuilt

/-- NOP, SINIT and ACK, the commands that phase FATAL does not drop (R95 step 1). -/
def runsInFatal : Instr → Bool
  | .nop => true
  | .sinit => true
  | .ack => true
  | .kpush1 _ => false
  | .kpush2 _ => false
  | .kaccept => false
  | .build => false
  | .enc => false
  | .dec => false

/-- `HostWrite(0, encode i)` (R95 with 20_memory.md R61 row 3): ERR while busy; ERR in FATAL but for NOP, SINIT, ACK;
`Fatal(IllegalCommand, 3, d)` in a phase where `i` is not legal, answered OK; otherwise the command's own effect,
answered OK. -/
def command (i : Instr) (effect : State → State) (s : State) : Result :=
  if s.busy then .next (s.reply .err)
  else if s.phase = .fatal ∧ runsInFatal i = false then .next (s.reply .err)
  else if legalIn i s.phase then .next ((effect s).reply .done)
  else .next ((raiseFatal .wrongPhase (encode i) s).reply .done)

/-- The cause of an illegal word (R94). -/
def illegalCause : IllegalWord → Cause
  | .reservedBits => .reservedBits
  | .unknownOpcode => .unknownOpcode
  | .immOnFormatZ => .reservedBits

/-- `HostWrite(0, d)` for a word that is no command (R95 steps 1 and 2). -/
def rejectWord (e : IllegalWord) (d : Word64) (s : State) : Result :=
  if s.busy then .next (s.reply .err)
  else if s.phase = .fatal then .next (s.reply .err)
  else .next ((raiseFatal (illegalCause e) d s).reply .done)

/-! ### The byte store -/

/-- The store's answer to the access at hand: the next one the state lists, else a free value (R72, assumption 2). -/
def nextReply (s : State) : StoreReply :=
  match s.tape with
  | r :: _ => r
  | [] => if Config.storeServesAccess s.draws then .ok else .fail

/-- The store serves a range when it answers ok and the range lies inside the real store (20_memory.md R70, R72). -/
def storeServes (a n : Nat) (s : State) : Bool := nextReply s == .ok && decide (a + n ≤ s.storeLen)

/-- One answer of the store is used up. -/
def State.drawn (s : State) : State := { s with tape := s.tape.tail, draws := s.draws + 1 }

/-- What a failed write leaves at the offsets of its range that exist (R72, U2): free values. -/
def lostBytes (a n : Nat) (s : State) : List Byte :=
  (List.range (min n (s.storeLen - a))).map fun o => Config.lostByte s.draws (a + o)

end Sys2Proof.Machine
end

