-- ==== Sys2Proof/Machine/Build.lean ====
section
/-! DEFINITION. BUILD and the build step (42_keystream_builder.md R149, R150). -/

namespace Sys2Proof.Machine

/-- BUILD (R149): `BUSY <- 1`; the work is done by the build step. -/
def execBuild (s : State) : Result := command .build (fun s => { s with busy := true }) s

/-- The build step (R150). -/
def buildStep (s : State) : State :=
  let k1 := readRow s.m1 0 s.klen1.toNat
  let k2 := readRow s.m2 0 s.klen2.toNat
  { s with
    m1 := storeRows s.m1 1 (generatedRows k1 k2)
    m2 := storeRows s.m2 1 (generatedRows k2 k1)
    phase := .matricesBuilt
    busy := false
    evt := true }

end Sys2Proof.Machine
end

