-- ==== Sys2Proof/Machine/Arith.lean ====
section
/-! DEFINITION. The pure functions of OddTable (40_oddtable_arith.md), KeyLengthAdvisor (41_keys_advisor.md) and
ChecksumMAC (45_checksum_mac.md). -/

namespace Sys2Proof.Machine

/-- The index type of the tables, 0..127 (R110, R114). -/
abbrev TableIndex := BitVec 7

/-- `ODD[x] = 2x + 1` (R110). -/
def oddTable (x : TableIndex) : Byte := BitVec.ofNat 8 (2 * x.toNat + 1)

/-- The 128 bytes of `INV`, index 0 first (R112). -/
def invBytes : List Byte :=
  [0x01, 0xAB, 0xCD, 0xB7, 0x39, 0xA3, 0xC5, 0xEF, 0xF1, 0x1B, 0x3D, 0xA7, 0x29, 0x13, 0x35, 0xDF,
   0xE1, 0x8B, 0xAD, 0x97, 0x19, 0x83, 0xA5, 0xCF, 0xD1, 0xFB, 0x1D, 0x87, 0x09, 0xF3, 0x15, 0xBF] ++
  [0xC1, 0x6B, 0x8D, 0x77, 0xF9, 0x63, 0x85, 0xAF, 0xB1, 0xDB, 0xFD, 0x67, 0xE9, 0xD3, 0xF5, 0x9F,
   0xA1, 0x4B, 0x6D, 0x57, 0xD9, 0x43, 0x65, 0x8F, 0x91, 0xBB, 0xDD, 0x47, 0xC9, 0xB3, 0xD5, 0x7F] ++
  [0x81, 0x2B, 0x4D, 0x37, 0xB9, 0x23, 0x45, 0x6F, 0x71, 0x9B, 0xBD, 0x27, 0xA9, 0x93, 0xB5, 0x5F,
   0x61, 0x0B, 0x2D, 0x17, 0x99, 0x03, 0x25, 0x4F, 0x51, 0x7B, 0x9D, 0x07, 0x89, 0x73, 0x95, 0x3F] ++
  [0x41, 0xEB, 0x0D, 0xF7, 0x79, 0xE3, 0x05, 0x2F, 0x31, 0x5B, 0x7D, 0xE7, 0x69, 0x53, 0x75, 0x1F,
   0x21, 0xCB, 0xED, 0xD7, 0x59, 0xC3, 0xE5, 0x0F, 0x11, 0x3B, 0x5D, 0xC7, 0x49, 0x33, 0x55, 0xFF]

/-- `INV[x]`, the inverse of `ODD[x]` modulo 256 (R111), read from the table of R112. -/
def invTable (x : TableIndex) : Byte := invBytes.getD x.toNat 0

/-- `T[n] = floor(2.65^n)` for n = 1..40 (41_keys_advisor.md R126). -/
def advisorThresholds : List Nat :=
  [2, 7, 18, 49, 130, 346, 917, 2432, 6444, 17078] ++
  [45258, 119936, 317831, 842252, 2231968, 5914717, 15674000, 41536101, 110070668, 291687271] ++
  [772971270, 2048373867, 5428190748, 14384705484, 38119469534, 101016594265, 267693974803, 709389033230,
   1879880938060, 4981684485859] ++
  [13201463887526, 34983879301945, 92707280150155, 245674292397912, 651036874854466, 1725247718364337,
   4571906453665493, 12115552102213558, 32106213070865930, 85081464637794715]

/-- `Advisor(size) = 2 + #{ n ≥ 1 : T[n] < size }` (R126); it has no value for `size ≤ 0` (R133). The 40 rows suffice
for every legal size. -/
def advisor (size : Nat) : Option Nat :=
  if size = 0 then none else some (2 + advisorThresholds.countP (fun t => decide (t < size)))

/-- NR's own loop (R125), over exact rationals `growth = 53^n / 20^n`: `while growth < size: k += 1; growth *= 2.65`,
with `fuel` bounding the number of rounds. -/
def advisorLoop (size : Nat) : Nat → Nat → Nat → Nat → Nat
  | 0, k, _, _ => k
  | fuel + 1, k, num, den => if num < size * den then advisorLoop size fuel (k + 1) (53 * num) (20 * den) else k

/-- `SIZE` is legal iff `1 ≤ SIZE ≤ 2^56 - 1` (10_state.md R25). -/
def sizeLegal (size : Word64) : Bool := decide (1 ≤ size.toNat) && decide (size.toNat ≤ Config.sizeMax)

/-- `CHUNK` is legal iff `1 ≤ CHUNK ≤ CHUNK_MAX` (10_state.md R25). -/
def chunkLegal (chunk : Word64) : Bool := decide (1 ≤ chunk.toNat) && decide (chunk.toNat ≤ Config.chunkMax)

/-- `MINKLEN`: `Advisor(SIZE)` for a legal `SIZE`, the sentinel 0 otherwise (10_state.md R30, 41_keys_advisor.md R127). -/
def minKeyLength (size : Word64) : Byte :=
  if sizeLegal size then BitVec.ofNat 8 ((advisor size.toNat).getD 0) else 0

/-- A key length is below the advisor's minimum for the data size (R130 steps 5 and 6). -/
def belowMinimum (klen size : Nat) : Bool :=
  match advisor size with
  | some k => decide (klen < k)
  | none => false

/-- The bit-strength estimate `6 × (L1 + L2)` (R131). -/
def strengthOf (klen1 klen2 : Byte) : BitVec 16 := BitVec.ofNat 16 (6 * (klen1.toNat + klen2.toNat))

/-- `MacOf(s)`: the four residues in the order of the moduli (45_checksum_mac.md R190). -/
def macOf (s : Nat) : Nat × Nat × Nat × Nat :=
  match Config.macModuli with
  | (p, q, r, t) => (s % p, s % q, s % r, s % t)

/-- The decimal digit of `n mod 10`. -/
def digitChar (n : Nat) : Char := Char.ofNat (48 + n % 10)

/-- `%03d` of a number below 1000 (R193). -/
def threeDigits (n : Nat) : List Char := [digitChar (n / 100), digitChar (n / 10), digitChar n]

/-- `FormatMAC`: `"%03d-%03d-%03d-%03d"` (R193), a function of the host. -/
def formatMac (m : Nat × Nat × Nat × Nat) : String :=
  String.ofList (threeDigits m.1 ++ ['-'] ++ threeDigits m.2.1 ++ ['-'] ++ threeDigits m.2.2.1 ++ ['-'] ++
    threeDigits m.2.2.2)

end Sys2Proof.Machine
end

