-- ==== Sys2Proof/Machine/Keys.lean ====
section
/-! DEFINITION. Key input and acceptance: KPUSH1, KPUSH2, KACCEPT (41_keys_advisor.md). -/

namespace Sys2Proof.Machine

/-- The effect of KPUSH1 (R128): the byte is appended to row 0 of `M1`, unless Key1 already holds `LMAX` bytes. -/
def pushKey1 (b : Byte) (s : State) : State :=
  if s.klen1.toNat = Config.lmax then raiseFatal .key1Full 0 s
  else { s with m1 := s.m1.write (matrixCell 0 s.klen1.toNat) b, klen1 := s.klen1 + 1 }

/-- The effect of KPUSH2 (R129): as KPUSH1 with Key2, `M2` and sub-cause 6. -/
def pushKey2 (b : Byte) (s : State) : State :=
  if s.klen2.toNat = Config.lmax then raiseFatal .key2Full 0 s
  else { s with m2 := s.m2.write (matrixCell 0 s.klen2.toNat) b, klen2 := s.klen2 + 1 }

/-- The first of KACCEPT's six checks that fails (R130 steps 1 to 6). -/
def acceptFailure (s : State) : Option Cause :=
  if sizeLegal s.size = false then some .sizeIllegal
  else if chunkLegal s.chunk = false then some .chunkIllegal
  else if s.klen1 = 0 then some .key1Empty
  else if s.klen2 = 0 then some .key2Empty
  else if s.enforce && belowMinimum s.klen1.toNat s.size.toNat then some .key1Short
  else if s.enforce && belowMinimum s.klen2.toNat s.size.toNat then some .key2Short
  else none

/-- The effect of KACCEPT (R130): the failing check's Fatal entry, or steps 7 and 8. -/
def acceptKeys (s : State) : State :=
  match acceptFailure s with
  | some c => raiseFatal c 0 s
  | none => { s with strength := strengthOf s.klen1 s.klen2, phase := .keysAccepted }

/-- KPUSH1 (R128). -/
def execKpush1 (b : Byte) (s : State) : Result := command (.kpush1 b) (pushKey1 b) s

/-- KPUSH2 (R129). -/
def execKpush2 (b : Byte) (s : State) : Result := command (.kpush2 b) (pushKey2 b) s

/-- KACCEPT (R130). -/
def execKaccept (s : State) : Result := command .kaccept acceptKeys s

end Sys2Proof.Machine
end

