-- ==== Sys2Proof/Machine/Session.lean ====
section
/-! DEFINITION. The session commands NOP, SINIT and ACK (46_session_control.md). -/

namespace Sys2Proof.Machine

/-- NOP (R201): no state change. -/
def execNop (s : State) : Result := command .nop (fun s => s) s

/-- SINIT (R202): end the session, discard its secrets, start a new one. -/
def execSinit (s : State) : Result := command .sinit endSession s

/-- ACK (R203): `EVT <- 0`. -/
def execAck (s : State) : Result := command .ack (fun s => { s with evt := false }) s

end Sys2Proof.Machine
end

