-- ==== Sys2Proof/Machine/Mixer.lean ====
section
/-! DEFINITION. PositionalByteMixer and the RK+ transform (43_mixer_rk.md). Intermediate values are exact integers,
reduced by the floored `mod` of 40_oddtable_arith.md R116. -/

namespace Sys2Proof.Machine

/-- The element of row `i` that position `t` selects: column `t mod (L - i)` (R155). -/
def mixTerm (t : Nat) (m : Memory) (L i : Nat) : Nat := (m.read (matrixCell i (t % (L - i)))).toNat

/-- `Mix(t, M, L)`: the sum over rows `0 .. ⌈L/2⌉ - 1`, modulo 256 (R155); the last generated row takes no part (R157). -/
def mix (t : Nat) (m : Memory) (L : Nat) : Byte :=
  BitVec.ofNat 8 (((List.range (ceilHalf L)).map (mixTerm t m L)).sum % 256)

/-- `RK = ((byte1 + byte2) mod 256) div 2` (R159). -/
def rkIndex (byte1 byte2 : Byte) : TableIndex := BitVec.ofNat 7 ((byte1.toNat + byte2.toNat) % 256 / 2)

/-- `127 - RK`. -/
def rkMirror (rk : TableIndex) : TableIndex := BitVec.ofNat 7 (127 - rk.toNat)

/-- `RKEncrypt(p, byte1, byte2)` (R160). -/
def rkEncrypt (p byte1 byte2 : Byte) : Byte :=
  let rk := rkIndex byte1 byte2
  let temp : Int := ((oddTable rk).toNat * p.toNat + byte1.toNat - byte2.toNat : Int) % 256
  BitVec.ofInt 8 (temp * ((oddTable (rkMirror rk)).toNat : Int) % 256)

/-- `RKDecrypt(c, byte1, byte2)` (R162). -/
def rkDecrypt (c byte1 byte2 : Byte) : Byte :=
  let rk := rkIndex byte1 byte2
  let temp : Int := ((c.toNat * (invTable (rkMirror rk)).toNat : Nat) : Int) % 256
  let q : Int := (temp - byte1.toNat + byte2.toNat) % 256
  BitVec.ofInt 8 (q * ((invTable rk).toNat : Int) % 256)

end Sys2Proof.Machine
end

