-- ==== Sys2Proof/Machine/Stream.lean ====
section
/-! DEFINITION. StreamProcessor: ENC, DEC and the fetch, transform and write-back steps (44_stream_processor.md), and the
finalize step (45_checksum_mac.md R191). -/

namespace Sys2Proof.Machine

/-- The writes that start a pass in direction `dir` (R171, R172). -/
def startPass (dir : Bool) (s : State) : State :=
  { s with dir := dir, pos := 0, csum := 0, sstep := .fetch, phase := .streaming, busy := true }

/-- ENC (R171). -/
def execEnc (s : State) : Result := command .enc (startPass false) s

/-- DEC (R172). -/
def execDec (s : State) : Result := command .dec (startPass true) s

/-- The finalize step (R191). -/
def finalizeStep (s : State) : State :=
  let mac := macOf s.csum.toNat
  { s with
    mac0 := BitVec.ofNat 8 mac.1
    mac1 := BitVec.ofNat 8 mac.2.1
    mac2 := BitVec.ofNat 8 mac.2.2.1
    mac3 := BitVec.ofNat 8 mac.2.2.2
    phase := .finalized
    busy := false
    evt := true }

/-- The length of the chunk at hand, `min(CHUNK, SIZE - POS)` (R173, R176). -/
def chunkLength (s : State) : Nat := min s.chunk.toNat (s.size.toNat - s.pos.toNat)

/-- The fetch step (R173). -/
def fetchStep (s : State) : State :=
  if s.pos = s.size then finalizeStep s
  else
    let n := chunkLength s
    let asked := { s.drawn with cbase := s.pos, clen := BitVec.ofNat 64 n }
    if storeServes s.pos.toNat n s then
      { asked with buf := s.buf.writeRange 0 (s.store.readRange s.pos.toNat n), sstep := .xform }
    else raiseFatal .readFailed s.pos asked

/-- The two mixing bytes of position `t` (R155, R174). -/
def mixBytes (s : State) (t : Nat) : Byte × Byte := (mix t s.m1 s.klen1.toNat, mix t s.m2 s.klen2.toNat)

/-- One byte of the transform step (R174): the byte that replaces `x` in `BUF`, and the ciphertext byte that `CSUM`
gains, which is the output when encrypting and the input when decrypting (R180). -/
def transformByte (s : State) (t : Nat) (x : Byte) : Byte × Byte :=
  let mb := mixBytes s t
  if s.dir then (rkDecrypt x mb.1 mb.2, x)
  else (rkEncrypt x mb.1 mb.2, rkEncrypt x mb.1 mb.2)

/-- The loop of the transform step (R174) over the buffer's bytes, in increasing order: `BUF`, `POS`, `CSUM`. -/
def transformBytes (s : State) : List Byte → Word64 → Word64 → List Byte × Word64 × Word64
  | [], pos, csum => ([], pos, csum)
  | x :: xs, pos, csum =>
    let r := transformByte s pos.toNat x
    let rest := transformBytes s xs (pos + 1) (csum + r.2.setWidth 64)
    (r.1 :: rest.1, rest.2)

/-- The transform step (R174). -/
def xformStep (s : State) : State :=
  let r := transformBytes s (s.buf.readRange 0 s.clen.toNat) s.pos s.csum
  { s with buf := s.buf.writeRange 0 r.1, pos := r.2.1, csum := r.2.2, sstep := .wback }

/-- The write-back step (R177). A failed write leaves free values in its range (20_memory.md R72). -/
def wbackStep (s : State) : State :=
  let a := s.cbase.toNat
  let n := s.clen.toNat
  if storeServes a n s then
    { s.drawn with store := s.store.writeRange a (s.buf.readRange 0 n), sstep := .fetch }
  else raiseFatal .writeFailed s.cbase { s.drawn with store := s.store.writeRange a (lostBytes a n s) }

/-- The streaming step that `SSTEP` selects (10_state.md R27). -/
def streamStep (s : State) : State :=
  match s.sstep with
  | .fetch => fetchStep s
  | .xform => xformStep s
  | .wback => wbackStep s

end Sys2Proof.Machine
end

