-- ==== Sys2Proof/Machine/Dispatch.lean ====
section
/-! DEFINITION. The meaning of each command: the whole `HostWrite(0, d)` transaction that carries it. -/

namespace Sys2Proof.Machine

def exec (i : Instr) (s : State) : Host.Outcome State Fault Refusal :=
  match i with
  | .nop => Sys2Proof.Machine.execNop s
  | .sinit => Sys2Proof.Machine.execSinit s
  | .kpush1 b => Sys2Proof.Machine.execKpush1 b s
  | .kpush2 b => Sys2Proof.Machine.execKpush2 b s
  | .kaccept => Sys2Proof.Machine.execKaccept s
  | .build => Sys2Proof.Machine.execBuild s
  | .enc => Sys2Proof.Machine.execEnc s
  | .dec => Sys2Proof.Machine.execDec s
  | .ack => Sys2Proof.Machine.execAck s

end Sys2Proof.Machine
end

