-- ==== Sys2Proof/Machine/Port.lean ====
section
/-! DEFINITION. The host register port (20_memory.md R60 to R66), the core agent's step (10_state.md R27) and the moves
of the host. -/

namespace Sys2Proof.Machine

/-- The value of a register, zero-extended (R60): `CMD` reads 0 (10_state.md R22), `MINKLEN` is computed (R30). -/
def readReg (r : Reg) (s : State) : Word64 :=
  match r with
  | .cmd => 0
  | .status => statusWord s
  | .ctrl => ctrlWord s
  | .size => s.size
  | .chunk => s.chunk
  | .klen1 => s.klen1.setWidth 64
  | .klen2 => s.klen2.setWidth 64
  | .minklen => (minKeyLength s.size).setWidth 64
  | .strength => s.strength.setWidth 64
  | .pos => s.pos
  | .csum => s.csum
  | .mac0 => s.mac0.setWidth 64
  | .mac1 => s.mac1.setWidth 64
  | .mac2 => s.mac2.setWidth 64
  | .mac3 => s.mac3.setWidth 64
  | .err => s.err.setWidth 64
  | .errinfo => s.errinfo

/-- The answer to `HostRead(n)` (R61 rows 1 to 4): while busy only `STATUS` is readable (R63). -/
def hostRead (n : Byte) (s : State) : Answer :=
  match Reg.ofNumber n with
  | none => .err
  | some r => if s.busy && r != .status then .err else .value (readReg r s)

/-- A write to `CMD`: the decoded command's meaning, or the rejection of an illegal word (30_encoding.md R95). -/
def writeCmd (d : Word64) (s : State) : Result :=
  match decode d with
  | .ok i => exec i s
  | .error e => rejectWord e d s

/-- A write to a register while `BUSY = 0` (R61 rows 5 to 10). -/
def writeReg (r : Reg) (d : Word64) (s : State) : Result :=
  match r with
  | .cmd => writeCmd d s
  | .ctrl => .next ({ s with ie := d.getLsbD 0, enforce := d.getLsbD 1 }.reply .done)
  | .size => if s.phase = .init then .next ({ s with size := d }.reply .done) else .next (s.reply .err)
  | .chunk => if s.phase = .init then .next ({ s with chunk := d }.reply .done) else .next (s.reply .err)
  | .status | .klen1 | .klen2 | .minklen | .strength | .pos | .csum | .mac0 | .mac1 | .mac2 | .mac3 | .err
  | .errinfo => .next (s.reply .err)

/-- `HostWrite(n, d)` (R61): ERR for a number that names no register, ERR while busy. -/
def hostWrite (n : Byte) (d : Word64) (s : State) : Result :=
  match Reg.ofNumber n with
  | none => .next (s.reply .err)
  | some r => if s.busy then .next (s.reply .err) else writeReg r d s

/-- The core agent's turn: no enabled step while `BUSY = 0`; otherwise the step that `PHASE` and `SSTEP` select
(10_state.md R27). -/
def coreStep (s : State) : Result :=
  if s.busy then
    match s.phase with
    | .keysAccepted => .next (buildStep s)
    | .streaming => .next (streamStep s)
    | .init | .matricesBuilt | .finalized | .fatal => .fault .noEnabledStep
  else .next s

/-- The host supplies a byte store holding `data` (70_reset_and_hazards.md R253 step 3); during a pass the store is "exclusively
owned by the StreamProcessor" and the model offers no such move (20_memory.md R77, U4). -/
def supplyStore (data : List Byte) (s : State) : Result :=
  if s.phase = .streaming then .refused .storeInUse
  else .next { s with store := Memory.writeRange [] 0 data, storeLen := data.length }

/-- One move of the host. -/
def hostMove (m : HostMove) (s : State) : Result :=
  match m with
  | .read n => .next (s.reply (hostRead n s))
  | .write n d => hostWrite n d s
  | .rst => .next (hardReset s)
  | .supply data => supplyStore data s
  | .yield => coreStep s

/-- The host's next move; with none left the core has the turn (assumption 1). -/
def agentsStep (s : State) : Result :=
  match s.host with
  | [] => coreStep s
  | m :: ms => hostMove m { s with host := ms }

end Sys2Proof.Machine
end

