-- ==== Sys2Proof/Machine/Step.lean ====
section
/-! DEFINITION. One step of the machine, and the placing of an instruction where the step takes it. -/

namespace Sys2Proof.Machine

/-- One step: one host transaction or one core step, never both (20_memory.md R60). -/
def step (s : State) : Host.Outcome State Fault Refusal := agentsStep s

/-- The state in which the host's next move is to write the table word to `CMD`: the core fetches no instruction, so
this is where a step takes its next one (20_memory.md R78, assumption 8). -/
def State.withFetchWord (s : State) (nbits w : Nat) : State :=
  { s with host := .write 0 (tableData nbits w) :: s.host }

end Sys2Proof.Machine
end

