-- ==== Sys2Proof/Machine/Script.lean ====
section
/-! DEFINITION. The script notation of 30_encoding.md R97 and its pseudo-operations (R98), as lists of host moves and
expected answers. -/

namespace Sys2Proof.Machine

/-- What a script line expects of its answer (R97). -/
inductive Expect where
  /-- nothing -/
  | any
  /-- `rd REG = value`: the answer `(OK, value)` -/
  | value (v : Word64)
  /-- the suffix `!ERR` -/
  | err
deriving DecidableEq, Repr

/-- One line of a script: a host move and what it expects. -/
structure ScriptLine where
  move : HostMove
  expect : Expect
deriving DecidableEq, Repr

/-- The answer meets the line's expectation. -/
def Expect.met : Expect → Answer → Bool
  | .any, _ => true
  | .value v, a => a == .value v
  | .err, a => a == .err

/-- `wr REG, value`. -/
def scriptWr (r : Reg) (v : Word64) : ScriptLine := ⟨.write r.number v, .any⟩

/-- `rd REG`. -/
def scriptRd (r : Reg) : ScriptLine := ⟨.read r.number, .any⟩

/-- `rd REG = value`. -/
def scriptRdIs (r : Reg) (v : Word64) : ScriptLine := ⟨.read r.number, .value v⟩

/-- A command's line, `nop` to `kpush2 byte`: `wr CMD, word`. -/
def scriptCmd (i : Instr) : ScriptLine := scriptWr .cmd (encode i)

/-- `rst`. -/
def scriptRst : ScriptLine := ⟨.rst, .any⟩

/-- `key1 b0 ... bn` (R98). -/
def scriptKey1 (bytes : List Byte) : List ScriptLine := bytes.map fun b => scriptCmd (.kpush1 b)

/-- `key2 b0 ... bn` (R98). -/
def scriptKey2 (bytes : List Byte) : List ScriptLine := bytes.map fun b => scriptCmd (.kpush2 b)

/-- `size n` (R98). -/
def scriptSize (n : Word64) : ScriptLine := scriptWr .size n

/-- `chunk n` (R98). -/
def scriptChunk (n : Word64) : ScriptLine := scriptWr .chunk n

/-- `wait` that takes `n` reads of `STATUS`, a core step before each (R98: "`wait` may take any number of reads"). -/
def scriptWait : Nat → List ScriptLine
  | 0 => []
  | n + 1 => ⟨.yield, .any⟩ :: scriptRd .status :: scriptWait n

/-- `mac` (R98). -/
def scriptMac : List ScriptLine := [scriptRd .mac0, scriptRd .mac1, scriptRd .mac2, scriptRd .mac3]

/-- `session_enc` and `session_dec` (R98), `pass` being ENC or DEC; the first wait takes `nb` reads, the second `np`. -/
def scriptSession (pass : Instr) (k1 k2 : List Byte) (size chunk : Word64) (nb np : Nat) : List ScriptLine :=
  scriptCmd .sinit :: scriptSize size :: scriptChunk chunk :: scriptKey1 k1 ++ scriptKey2 k2 ++
    [scriptCmd .kaccept, scriptCmd .build] ++ scriptWait nb ++ [scriptCmd pass] ++ scriptWait np ++ scriptMac

/-- The moves of a script. -/
def scriptMoves (lines : List ScriptLine) : List HostMove := lines.map (·.move)

/-- Whether a script's answers, oldest first, meet its expectations: `rst`, `supply` and `yield` are answered nothing. -/
def scriptMet : List ScriptLine → List Answer → Bool
  | [], _ => true
  | l :: ls, as =>
    match l.move, as with
    | .read _, a :: as' => l.expect.met a && scriptMet ls as'
    | .write _ _, a :: as' => l.expect.met a && scriptMet ls as'
    | .read _, [] => false
    | .write _ _, [] => false
    | .rst, as => scriptMet ls as
    | .supply _, as => scriptMet ls as
    | .yield, as => scriptMet ls as

end Sys2Proof.Machine
end

