-- ==== Sys2Proof/Safety.lean ====
section
/-! DEFINITION. What holds in every reachable state (10_state.md R45 and the rules it rests on), and how a run ends
(70_reset_and_hazards.md R261). -/

namespace Sys2Proof.Machine

/-- The phases after a successful KACCEPT and outside FATAL (R45 item 2). -/
def Phase.accepted : Phase → Bool
  | .init => false
  | .keysAccepted => true
  | .matricesBuilt => true
  | .streaming => true
  | .finalized => true
  | .fatal => false

/-- The phases before a pass has started, outside FATAL. -/
def Phase.beforePass : Phase → Bool
  | .init => true
  | .keysAccepted => true
  | .matricesBuilt => true
  | .streaming => false
  | .finalized => false
  | .fatal => false

/-- `ERR` holds a value of R221's table other than the reserved one (R224). -/
def errListed (e : BitVec 16) : Bool :=
  e == 0 ||
  [Cause.key1Empty, .key2Empty, .key1Short, .key2Short, .key1Full, .key2Full, .readFailed, .writeFailed, .sizeIllegal,
    .chunkIllegal, .unknownOpcode, .reservedBits, .wrongPhase].any (fun c => c.err == e)

/-- `CBASE` and `CLEN` describe a chunk of the data: it starts at a multiple of `CHUNK` inside `[0, SIZE)` and is
`min(CHUNK, SIZE - CBASE)` long (20_memory.md R70, 44_stream_processor.md R173). -/
def chunkHeld (s : State) : Prop :=
  s.cbase.toNat < s.size.toNat ∧ s.cbase.toNat % s.chunk.toNat = 0 ∧
    s.clen.toNat = min s.chunk.toNat (s.size.toNat - s.cbase.toNat)

/-- The invariant of reachable states: R45 items 1 to 5 and what their proofs need. -/
structure Inv (s : State) : Prop where
  /-- R45 item 1 -/
  busyPhase : s.busy = true → s.phase = .keysAccepted ∨ s.phase = .streaming
  /-- R45 item 1 -/
  streamingBusy : s.phase = .streaming → s.busy = true
  /-- R45 item 2 -/
  params : s.phase.accepted = true →
    1 ≤ s.klen1.toNat ∧ 1 ≤ s.klen2.toNat ∧ sizeLegal s.size = true ∧ chunkLegal s.chunk = true
  /-- R45 items 2 and 3 -/
  fatalIff : s.phase = .fatal ↔ errCode s ≠ 0
  /-- 60_exceptions.md R221, R224 -/
  errTable : errListed s.err = true
  /-- 44_stream_processor.md R171: "they already are 0 in MATRICES_BUILT" -/
  notStarted : s.phase.beforePass = true → s.pos = 0 ∧ s.csum = 0
  /-- R34: the MAC registers read 0 before the finalize step -/
  macBefore : s.phase.beforePass = true ∨ s.phase = .streaming →
    s.mac0 = 0 ∧ s.mac1 = 0 ∧ s.mac2 = 0 ∧ s.mac3 = 0
  /-- R45 item 4 and R173: between chunks -/
  atFetch : s.phase = .streaming → s.sstep = .fetch →
    s.pos.toNat = s.size.toNat ∨ s.pos.toNat < s.size.toNat ∧ s.pos.toNat % s.chunk.toNat = 0
  /-- R173: a chunk has been fetched -/
  atXform : s.phase = .streaming → s.sstep = .xform → chunkHeld s ∧ s.pos = s.cbase
  /-- R174: the chunk has been transformed -/
  atWback : s.phase = .streaming → s.sstep = .wback → chunkHeld s ∧ s.pos.toNat = s.cbase.toNat + s.clen.toNat
  /-- R45 item 4 and R33 -/
  csumBound : s.phase = .streaming ∨ s.phase = .finalized → s.csum.toNat ≤ 255 * s.pos.toNat
  /-- R45 item 5 -/
  finalized : s.phase = .finalized → s.pos = s.size ∧
    s.mac0.toNat = s.csum.toNat % 233 ∧ s.mac1.toNat = s.csum.toNat % 239 ∧
    s.mac2.toNat = s.csum.toNat % 241 ∧ s.mac3.toNat = s.csum.toNat % 251
  /-- the canonical form of the four memories -/
  m1Wf : Memory.wf s.m1 = true
  m2Wf : Memory.wf s.m2 = true
  bufWf : Memory.wf s.buf = true
  storeWf : Memory.wf s.store = true

/-- The command that the next step carries out, when the host's next move writes a command to `CMD`. -/
def nextCommand (s : State) : Option Instr :=
  match s.host with
  | .write n d :: _ =>
    if n = 0 then
      match decode d with
      | .ok i => some i
      | .error _ => none
    else none
  | .read _ :: _ => none
  | .rst :: _ => none
  | .supply _ :: _ => none
  | .yield :: _ => none
  | [] => none

/-- `⌈SIZE / CHUNK⌉`, the number of chunks of a pass (44_stream_processor.md R176). -/
def chunkCount (s : State) : Nat := (s.size.toNat + s.chunk.toNat - 1) / s.chunk.toNat

/-- A pass that has been accepted and has not made its first access, over a store that holds `SIZE` bytes and will
answer ok to every access of the pass. -/
structure PassReady (s : State) : Prop where
  streaming : s.phase = .streaming
  busy : s.busy = true
  atFetch : s.sstep = .fetch
  posZero : s.pos = 0
  csumZero : s.csum = 0
  noHostMove : s.host = []
  sizeOk : sizeLegal s.size = true
  chunkOk : chunkLegal s.chunk = true
  storeLongEnough : s.size.toNat ≤ s.storeLen
  storeAnswersOk : s.tape.take (2 * chunkCount s) = List.replicate (2 * chunkCount s) .ok

/-- What a pass makes of byte `x` at offset `a` (44_stream_processor.md R175). -/
def passByte (s : State) (a : Nat) (x : Byte) : Byte :=
  if s.dir then rkDecrypt x (mix a s.m1 s.klen1.toNat) (mix a s.m2 s.klen2.toNat)
  else rkEncrypt x (mix a s.m1 s.klen1.toNat) (mix a s.m2 s.klen2.toNat)

/-- The ciphertext byte at offset `a` of a pass over the store of `s`: the output when encrypting, the input when
decrypting (44_stream_processor.md R180). -/
def cipherByte (s : State) (a : Nat) : Byte :=
  if s.dir then s.store.read a else passByte s a (s.store.read a)

/-- "A script has ended normally when all its transactions have been answered and `BUSY = 0`" (R261). -/
def endedNormally (s : State) : Bool := s.host.isEmpty && !s.busy

/-- The session outcome is NR's `Success` (R261). -/
def sessionSucceeded (s : State) : Bool := endedNormally s && s.phase == .finalized

/-- The session outcome is NR's `Fatal` (R261). -/
def sessionFatal (s : State) : Bool := endedNormally s && s.phase == .fatal

/-- A state is safe when no run from it stops with a fault. -/
def Safe (s : State) : Prop := ∀ (k : Nat) (f : Fault), Sys2Proof.core.run k s ≠ .fault f

end Sys2Proof.Machine
end

