-- ==== Sys2Proof/Certificates/Slice0/Obligations.lean ====
section
/-! DEFINITION. The statements for the provers, one definition each. Each docstring names the rule of spec/ it formalises.
Where a statement names `host`, `answers`, `tape` or `draws` it speaks of fields that are the model's own choice, of
assumptions 1 (the host's moves), 5 (the port's answers) and 2 (the store's answers). -/

open Sys2Proof Sys2Proof.Machine

/-! ### Encoding -/

/-- 30_encoding.md R90 to R93: every command, with every immediate, is read back from its encoding. -/
def Obligations.DecodeOfEncode : Prop := ∀ i : Instr, decode (encode i) = .ok i

/-- R96: a word means one command; the command determines all 64 bits. -/
def Obligations.EncodeOfDecode : Prop := ∀ (d : Word64) (i : Instr), decode d = .ok i → encode i = d

/-- R93: "a word `w` selects the row iff `w AND mask = match` (and `d[63:16] = 0`)". -/
def Obligations.DecodeFollowsOpcodeMap : Prop :=
  ∀ (d : Word64) (r : OpcodeRow), r ∈ opcodeMap →
    ((d.extractLsb' 16 48 = 0 ∧ d.extractLsb' 0 16 &&& r.mask = r.pattern) ↔
      ∃ i, decode d = .ok i ∧ i.mnemonic = r.mnemonic)

/-- R94 and R95 step 1: the illegal words, their sub-causes, and which cause is reported when several apply. -/
def Obligations.IllegalWordsAndTheirCauses : Prop :=
  ∀ d : Word64,
    (d.extractLsb' 16 48 ≠ 0 → ∃ e, decode d = .error e ∧ (illegalCause e).err = 0x0205) ∧
    (d.extractLsb' 16 48 = 0 → 9 ≤ (d.extractLsb' 0 8).toNat →
      ∃ e, decode d = .error e ∧ (illegalCause e).err = 0x0105) ∧
    (d.extractLsb' 16 48 = 0 → (d.extractLsb' 0 8).toNat ≤ 8 → (d.extractLsb' 0 8).toNat ≠ 2 →
      (d.extractLsb' 0 8).toNat ≠ 3 → d.extractLsb' 8 8 ≠ 0 →
      ∃ e, decode d = .error e ∧ (illegalCause e).err = 0x0205) ∧
    (d.extractLsb' 16 48 = 0 → (d.extractLsb' 0 8).toNat ≤ 8 →
      ((d.extractLsb' 0 8).toNat = 2 ∨ (d.extractLsb' 0 8).toNat = 3 ∨ d.extractLsb' 8 8 = 0) →
      ∃ i, decode d = .ok i)

/-- R99, with further words of 95_test_vectors.md section 8: words written out from the encoding, and the sub-causes of
the illegal ones. -/
def Obligations.WorkedWordsDecode : Prop :=
  encode (.kpush1 0x61) = 0x6102 ∧ encode .build = 0x0005 ∧
  decode 0x6102 = .ok (.kpush1 0x61) ∧ decode 0xFF03 = .ok (.kpush2 0xFF) ∧ decode 0x0005 = .ok .build ∧
  decode 0x0006 = .ok .enc ∧ decode 0x0008 = .ok .ack ∧
  decode 0x0105 = .error .immOnFormatZ ∧ (illegalCause .immOnFormatZ).sub = 2 ∧
  decode 0x0009 = .error .unknownOpcode ∧ (illegalCause .unknownOpcode).sub = 1 ∧
  decode 0x10000 = .error .reservedBits ∧ (illegalCause .reservedBits).sub = 2

/-! ### A step and the command it carries -/

/-- A step in which the host writes a command to `CMD` is the meaning of that command, the move having been taken off the
host's list (the model's choice, assumption 1). The other steps that are no register access: a `yield` is the step the core
takes when the host is silent, with the rest of the list kept, so that what a statement says of a state with `host = []`
holds of the same step given by a `yield`; the core has an enabled step while `BUSY = 1` in KEYS_ACCEPTED and STREAMING and
none while `BUSY = 0` (10_state.md R27); `supply` replaces the byte store outside a pass (70_reset_and_hazards.md R253 step 3) and is
refused during one (20_memory.md R77, assumption 9). -/
def Obligations.StepRunsDecodedCommand : Prop :=
  (∀ (s : State) (d : Word64) (ms : List HostMove) (i : Instr), s.host = .write 0 d :: ms → decode d = .ok i →
    step s = exec i { s with host := ms }) ∧
  (∀ (s t : State) (ms : List HostMove), s.host = .yield :: ms → step { s with host := [] } = .next t →
    step s = .next { t with host := ms }) ∧
  (∀ s : State, s.host = [] →
    (s.busy = true → s.phase = .keysAccepted ∨ s.phase = .streaming → ∃ t, step s = .next t) ∧
    (s.busy = false → step s = .next s)) ∧
  (∀ (s : State) (data : List Byte) (ms : List HostMove), s.host = .supply data :: ms →
    (s.phase = .streaming → step s = .refused .storeInUse) ∧
    (s.phase ≠ .streaming → ∃ m : Memory,
      step s = .next { s with host := ms, store := m, storeLen := data.length } ∧
      ∀ a, m.read a = data.getD a 0))

/-- R95 steps 1 and 2, R94: a word that is no command enters FATAL with the whole 64-bit data recorded and is answered
OK; in FATAL, and while busy, it is answered ERR and nothing changes. -/
def Obligations.StepRejectsIllegalWord : Prop :=
  ∀ (s : State) (d : Word64) (ms : List HostMove) (e : IllegalWord), s.host = .write 0 d :: ms → decode d = .error e →
    (s.busy = true ∨ s.phase = .fatal → step s = .next { s with host := ms, answers := .err :: s.answers }) ∧
    (s.busy = false → s.phase ≠ .fatal → step s = .next
      { s with host := ms, answers := .done :: s.answers, err := (illegalCause e).err, errinfo := d, phase := .fatal,
               busy := false, evt := true })

/-! ### The nine commands -/

/-- 46_session_control.md R201: the word 0 is NOP, which changes nothing, in every phase. -/
def Obligations.NopChangesNothing : Prop :=
  decode 0 = .ok .nop ∧ ∀ s : State, s.busy = false → exec .nop s = .next { s with answers := .done :: s.answers }

/-- R202: the word 1 is SINIT, which gives the reset state, `CTRL` and everything outside the core kept; while busy it is
answered ERR and changes nothing. -/
def Obligations.SinitRestoresAllButCtrl : Prop :=
  decode 1 = .ok .sinit ∧ ∀ s : State,
    (s.busy = false → exec .sinit s = .next
      { State.reset with
        ie := s.ie, enforce := s.enforce
        store := s.store, storeLen := s.storeLen, host := s.host, tape := s.tape, draws := s.draws
        answers := .done :: s.answers }) ∧
    (s.busy = true → exec .sinit s = .next { s with answers := .err :: s.answers })

/-- R203: the word 8 is ACK, which clears `EVT`, so that `irq` drops, and changes nothing else, in every phase. -/
def Obligations.AckClearsEvent : Prop :=
  decode 8 = .ok .ack ∧ ∀ s : State, s.busy = false →
    exec .ack s = .next { s with evt := false, answers := .done :: s.answers } ∧ irq { s with evt := false } = false

/-- 41_keys_advisor.md R128: KPUSH1 appends its byte to Key1. -/
def Obligations.Kpush1AppendsByte : Prop :=
  ∀ (s : State) (b : Byte), s.busy = false → s.phase = .init → s.klen1.toNat < 255 →
    ∃ m : Memory, exec (.kpush1 b) s = .next
      { s with m1 := m, klen1 := s.klen1 + 1, answers := .done :: s.answers } ∧
      m.read (matrixCell 0 s.klen1.toNat) = b ∧
      (∀ x, x ≠ matrixCell 0 s.klen1.toNat → m.read x = s.m1.read x) ∧ (s.klen1 + 1).toNat = s.klen1.toNat + 1

/-- R129: KPUSH2 appends its byte to Key2. -/
def Obligations.Kpush2AppendsByte : Prop :=
  ∀ (s : State) (b : Byte), s.busy = false → s.phase = .init → s.klen2.toNat < 255 →
    ∃ m : Memory, exec (.kpush2 b) s = .next
      { s with m2 := m, klen2 := s.klen2 + 1, answers := .done :: s.answers } ∧
      m.read (matrixCell 0 s.klen2.toNat) = b ∧
      (∀ x, x ≠ matrixCell 0 s.klen2.toNat → m.read x = s.m2.read x) ∧ (s.klen2 + 1).toNat = s.klen2.toNat + 1

/-- R128, R129, 60_exceptions.md R221: a 256th key byte is InvalidKey 5 or 6 and is not stored. -/
def Obligations.FullKeyIsInvalidKey : Prop :=
  ∀ (s : State) (b : Byte), s.busy = false → s.phase = .init →
    (s.klen1.toNat = 255 → exec (.kpush1 b) s = .next
      { s with err := 0x0501, errinfo := 0, phase := .fatal, evt := true, answers := .done :: s.answers }) ∧
    (s.klen2.toNat = 255 → exec (.kpush2 b) s = .next
      { s with err := 0x0601, errinfo := 0, phase := .fatal, evt := true, answers := .done :: s.answers })

/-- R130 steps 7 and 8: KACCEPT accepts when all six checks pass. -/
def Obligations.KacceptAcceptsLegalSession : Prop :=
  ∀ s : State, s.busy = false → s.phase = .init →
    1 ≤ s.size.toNat → s.size.toNat ≤ 2 ^ 56 - 1 → 1 ≤ s.chunk.toNat → s.chunk.toNat ≤ 1048576 →
    s.klen1 ≠ 0 → s.klen2 ≠ 0 →
    (s.enforce = true → ∃ k, advisor s.size.toNat = some k ∧ k ≤ s.klen1.toNat ∧ k ≤ s.klen2.toNat) →
    ∃ str : BitVec 16, exec .kaccept s = .next
      { s with strength := str, phase := .keysAccepted, answers := .done :: s.answers } ∧
      str.toNat = 6 * (s.klen1.toNat + s.klen2.toNat)

/-- R130 steps 1 to 6 and R228: the first failing check decides the Fatal entry; the conditions are in the checks' order. -/
def Obligations.KacceptReportsFirstFailure : Prop :=
  ∀ s : State, s.busy = false → s.phase = .init →
    let refused (e : BitVec 16) : Prop := exec .kaccept s = .next
      { s with err := e, errinfo := 0, phase := .fatal, evt := true, answers := .done :: s.answers }
    let short (klen : Byte) : Prop := s.enforce = true ∧ ∃ k, advisor s.size.toNat = some k ∧ klen.toNat < k
    if ¬ (1 ≤ s.size.toNat ∧ s.size.toNat ≤ 2 ^ 56 - 1) then refused 0x0104
    else if ¬ (1 ≤ s.chunk.toNat ∧ s.chunk.toNat ≤ 1048576) then refused 0x0204
    else if s.klen1 = 0 then refused 0x0101
    else if s.klen2 = 0 then refused 0x0201
    else (short s.klen1 → refused 0x0301) ∧ (¬ short s.klen1 → short s.klen2 → refused 0x0401)

/-- 42_keystream_builder.md R149: BUILD in KEYS_ACCEPTED sets `BUSY` and nothing else. -/
def Obligations.BuildSetsBusy : Prop :=
  ∀ s : State, s.busy = false → s.phase = .keysAccepted →
    exec .build s = .next { s with busy := true, answers := .done :: s.answers }

/-- 44_stream_processor.md R171, R172: ENC and DEC in MATRICES_BUILT start a pass; they differ in `DIR` only. -/
def Obligations.EncAndDecStartPass : Prop :=
  ∀ s : State, s.busy = false → s.phase = .matricesBuilt →
    exec .enc s = .next { s with dir := false, pos := 0, csum := 0, sstep := .fetch, phase := .streaming, busy := true,
                                 answers := .done :: s.answers } ∧
    exec .dec s = .next { s with dir := true, pos := 0, csum := 0, sstep := .fetch, phase := .streaming, busy := true,
                                 answers := .done :: s.answers }

/-- 30_encoding.md R95 step 3, 46_session_control.md R206: a well-formed command in a phase where it is not legal is
IllegalCommand 3 with the command's data recorded, answered OK, and has none of its own effect. -/
def Obligations.WrongPhaseIsIllegalCommand : Prop :=
  ∀ (s : State) (i : Instr), s.busy = false → s.phase ≠ .fatal →
    ((∃ b, i = .kpush1 b) ∨ (∃ b, i = .kpush2 b) ∨ i = .kaccept) ∧ s.phase ≠ .init ∨
      i = .build ∧ s.phase ≠ .keysAccepted ∨ (i = .enc ∨ i = .dec) ∧ s.phase ≠ .matricesBuilt →
    exec i s = .next { s with err := 0x0305, errinfo := encode i, phase := .fatal, evt := true,
                              answers := .done :: s.answers }

/-- R95 step 1, 60_exceptions.md R230: in FATAL every command but NOP, SINIT and ACK is answered ERR and changes
nothing. -/
def Obligations.FatalPhaseDropsCommands : Prop :=
  ∀ (s : State) (i : Instr), s.busy = false → s.phase = .fatal → i ≠ .nop → i ≠ .sinit → i ≠ .ack →
    exec i s = .next { s with answers := .err :: s.answers }

/-- What the commands leave alone: the byte store, its length, the store's answers, the host's moves and `CTRL`, for all
nine; the rest for all but the commands named. -/
def Obligations.CommandsFrame : Prop :=
  ∀ (i : Instr) (s t : State), exec i s = .next t →
    (∀ a, t.store.read a = s.store.read a) ∧ t.storeLen = s.storeLen ∧ t.tape = s.tape ∧ t.draws = s.draws ∧
    t.host = s.host ∧ t.ie = s.ie ∧ t.enforce = s.enforce ∧
    (i ≠ .build → i ≠ .enc → i ≠ .dec → t.busy = s.busy) ∧
    (i ≠ .sinit →
      t.size = s.size ∧ t.chunk = s.chunk ∧ t.mac0 = s.mac0 ∧ t.mac1 = s.mac1 ∧ t.mac2 = s.mac2 ∧ t.mac3 = s.mac3 ∧
      t.cbase = s.cbase ∧ t.clen = s.clen ∧ (∀ a, t.buf.read a = s.buf.read a) ∧
      (i ≠ .kaccept → t.strength = s.strength) ∧
      (i ≠ .enc → i ≠ .dec → t.dir = s.dir ∧ t.pos = s.pos ∧ t.csum = s.csum ∧ t.sstep = s.sstep) ∧
      ((∀ b, i ≠ .kpush1 b) → t.klen1 = s.klen1 ∧ ∀ a, t.m1.read a = s.m1.read a) ∧
      ((∀ b, i ≠ .kpush2 b) → t.klen2 = s.klen2 ∧ ∀ a, t.m2.read a = s.m2.read a) ∧
      (t.phase ≠ .fatal → t.err = s.err ∧ t.errinfo = s.errinfo ∧ (i ≠ .ack → t.evt = s.evt) ∧
        (i ≠ .kaccept → i ≠ .enc → i ≠ .dec → t.phase = s.phase)))

/-- 60_exceptions.md R226: Fatal entry makes five writes and no other, and `ERR` holds the cause's code and sub-cause. -/
def Obligations.FatalEntryWrites : Prop :=
  ∀ (c : Cause) (info : Word64) (s : State),
    raiseFatal c info s = { s with err := c.err, errinfo := info, phase := .fatal, busy := false, evt := true } ∧
    errCode (raiseFatal c info s) = c.code ∧ errSub (raiseFatal c info s) = c.sub ∧
    (c.err).toNat = 256 * c.sub.toNat + c.code.toNat ∧ 1 ≤ c.code.toNat ∧ c.code.toNat ≤ 5

/-! ### The host register port -/

/-- 20_memory.md R61 row 4 and R64 with 10_state.md R21, R30: a step in which the host reads a register of an idle core
appends the answer and changes nothing else, and what each register reads as. -/
def Obligations.HostReadAnswersRegisters : Prop :=
  ∀ s : State, s.busy = false →
    (∀ (n : Byte) (ms : List HostMove), s.host = .read n :: ms →
      step s = .next { s with host := ms, answers := hostRead n s :: s.answers }) ∧
    hostRead 0 s = .value 0 ∧ hostRead 1 s = .value (statusWord s) ∧ hostRead 2 s = .value (ctrlWord s) ∧
    hostRead 3 s = .value s.size ∧ hostRead 4 s = .value s.chunk ∧
    hostRead 5 s = .value (s.klen1.setWidth 64) ∧ hostRead 6 s = .value (s.klen2.setWidth 64) ∧
    (∃ v : Word64, hostRead 7 s = .value v ∧
      (1 ≤ s.size.toNat → s.size.toNat ≤ 2 ^ 56 - 1 → advisor s.size.toNat = some v.toNat) ∧
      (s.size.toNat = 0 ∨ 2 ^ 56 ≤ s.size.toNat → v = 0)) ∧
    hostRead 8 s = .value (s.strength.setWidth 64) ∧ hostRead 9 s = .value s.pos ∧ hostRead 10 s = .value s.csum ∧
    hostRead 11 s = .value (s.mac0.setWidth 64) ∧ hostRead 12 s = .value (s.mac1.setWidth 64) ∧
    hostRead 13 s = .value (s.mac2.setWidth 64) ∧ hostRead 14 s = .value (s.mac3.setWidth 64) ∧
    hostRead 15 s = .value (s.err.setWidth 64) ∧ hostRead 16 s = .value s.errinfo

/-- R23, R26, R24: the places of the fields of `STATUS` and `CTRL`, zeros above. -/
def Obligations.StatusAndCtrlLayout : Prop :=
  ∀ s : State,
    (statusWord s).toNat =
      (match s.phase with
        | .init => 0 | .keysAccepted => 1 | .matricesBuilt => 2 | .streaming => 3 | .finalized => 4 | .fatal => 7) +
      8 * s.busy.toNat + 16 * s.evt.toNat + 32 * s.dir.toNat ∧
    (ctrlWord s).toNat = s.ie.toNat + 2 * s.enforce.toNat

/-- R61 rows 6 to 9: a step in which the host writes `CTRL`, `SIZE` or `CHUNK` of an idle core. -/
def Obligations.HostWritesOfParameters : Prop :=
  ∀ (s : State) (d : Word64) (ms : List HostMove), s.busy = false →
    (s.host = .write 2 d :: ms → step s = .next
      { s with host := ms, ie := d.getLsbD 0, enforce := d.getLsbD 1, answers := .done :: s.answers }) ∧
    (s.host = .write 3 d :: ms →
      (s.phase = .init → step s = .next { s with host := ms, size := d, answers := .done :: s.answers }) ∧
      (s.phase ≠ .init → step s = .next { s with host := ms, answers := .err :: s.answers })) ∧
    (s.host = .write 4 d :: ms →
      (s.phase = .init → step s = .next { s with host := ms, chunk := d, answers := .done :: s.answers }) ∧
      (s.phase ≠ .init → step s = .next { s with host := ms, answers := .err :: s.answers }))

/-- R61 rows 1 and 10, R62: a step in which the host writes a read-only or unimplemented number, or reads an unimplemented
one, appends the answer ERR and changes nothing else, busy or not. -/
def Obligations.ForbiddenAccessesAnswerErr : Prop :=
  ∀ (s : State) (n : Byte) (d : Word64) (ms : List HostMove),
    (s.host = .read n :: ms → 17 ≤ n.toNat → step s = .next { s with host := ms, answers := .err :: s.answers }) ∧
    (s.host = .write n d :: ms → n.toNat = 1 ∨ 5 ≤ n.toNat →
      step s = .next { s with host := ms, answers := .err :: s.answers })

/-- R63: while `BUSY = 1` the host reads only `STATUS`, every other access answers ERR without effect, and `rst` overrides
the busy core. -/
def Obligations.BusyPortRefusesEverything : Prop :=
  ∀ (s : State) (ms : List HostMove) (n : Byte), s.busy = true →
    (∀ d, s.host = .write n d :: ms → step s = .next { s with host := ms, answers := .err :: s.answers }) ∧
    (s.host = .read n :: ms → n ≠ 1 → step s = .next { s with host := ms, answers := .err :: s.answers }) ∧
    (s.host = .read 1 :: ms →
      step s = .next { s with host := ms, answers := .value (statusWord s) :: s.answers }) ∧
    (s.host = .rst :: ms → ∃ t, step s = .next t ∧ t.busy = false ∧ t.phase = .init)

/-- R81, its second half (the host port): no register read tells states apart that differ in the matrices and the chunk buffer only. -/
def Obligations.SecretsHaveNoReadPath : Prop :=
  ∀ (s : State) (x y z : Memory) (n : Byte), hostRead n { s with m1 := x, m2 := y, buf := z } = hostRead n s

/-- R81: while the core is idle, no move of the host tells states apart that differ in the matrices and the chunk buffer
only: its answers and everything else it changes are the same in both. -/
def Obligations.HostMovesRevealNoSecret : Prop :=
  ∀ (s t : State) (x y z : Memory), s.busy = false → step s = .next t →
    ∃ x' y' z' : Memory, step { s with m1 := x, m2 := y, buf := z } = .next { t with m1 := x', m2 := y', buf := z' }

/-! ### Reset -/

/-- 10_state.md R44: the reset values the spec gives, and the registers as the host reads them. -/
def Obligations.ResetValues : Prop :=
  statusWord State.reset = 0 ∧ ctrlWord State.reset = 2 ∧ State.reset.size = 0 ∧ State.reset.chunk = 1048576 ∧
  State.reset.klen1 = 0 ∧ State.reset.klen2 = 0 ∧ hostRead 7 State.reset = .value 0 ∧ State.reset.strength = 0 ∧
  State.reset.pos = 0 ∧ State.reset.csum = 0 ∧ State.reset.mac0 = 0 ∧ State.reset.mac1 = 0 ∧ State.reset.mac2 = 0 ∧
  State.reset.mac3 = 0 ∧ State.reset.err = 0 ∧ State.reset.errinfo = 0 ∧
  (∀ a, State.reset.m1.read a = 0 ∧ State.reset.m2.read a = 0 ∧ State.reset.buf.read a = 0) ∧
  State.reset.cbase = 0 ∧ State.reset.clen = 0 ∧ State.reset.sstep = .fetch ∧ irq State.reset = false

/-- 70_reset_and_hazards.md R250: `rst` gives the reset state in every state, busy or not; the byte store is not
changed. -/
def Obligations.RstRestoresResetState : Prop :=
  ∀ (s : State) (ms : List HostMove), s.host = .rst :: ms → step s = .next
    { State.reset with store := s.store, storeLen := s.storeLen, host := ms, answers := s.answers, tape := s.tape,
                       draws := s.draws }

/-! ### The builder -/

/-- 42_keystream_builder.md R140, R141: the shape of a matrix. -/
def Obligations.MatrixShape : Prop :=
  ∀ K K' : List Byte, (buildMatrix K K').length = (K.length + 1) / 2 + 1 ∧ (buildMatrix K K')[0]? = some K ∧
    ∀ (i : Nat) (r : List Byte), (buildMatrix K K')[i]? = some r → r.length = K.length - i

/-- R142 to R145: the elements of row `i`, from the row above, the two keys and the column. -/
def Obligations.RowElements : Prop :=
  ∀ (K K' prevRow row : List Byte) (i j : Nat), (buildMatrix K K')[i]? = some prevRow →
    (buildMatrix K K')[i + 1]? = some row → j < K.length - (i + 1) →
    let last := K.length - (i + 1)
    let a := byteAt prevRow j * byteAt prevRow last
    let b := byteAt prevRow (j + 1) * byteAt prevRow (if j = 0 then last else 0)
    byteAt row j = ((List.range K'.length).foldl (fun acc k =>
      acc + byteAt K' k * byteAt K' ((k + j) % K'.length) * byteAt K ((acc + k) % K.length)) (a + b)) % 256

/-- R148: for keys of at most 255 bytes the accumulator fits 32 bits at every element. -/
def Obligations.AccumulatorBound : Prop :=
  ∀ (K K' prevRow : List Byte) (i j : Nat), K'.length ≤ 255 →
    elementAcc K K' prevRow i j ≤ 4228380675 ∧ elementAcc K K' prevRow i j < 2 ^ 32

/-- R150, R146: the build step leaves in `M1` and `M2` the two matrices of the keys in row 0, sets the phase
MATRICES_BUILT with `EVT`, and changes nothing else: every cell of `M1` and `M2` outside the generated rows
`1 .. ⌈L/2⌉` reads as before. -/
def Obligations.BuildStepBuildsBothMatrices : Prop :=
  ∀ s : State, s.host = [] → s.busy = true → s.phase = .keysAccepted →
    ∃ x y : Memory, step s = .next { s with m1 := x, m2 := y, phase := .matricesBuilt, busy := false, evt := true } ∧
      (∀ (i : Nat) (r : List Byte),
        (buildMatrix (readRow s.m1 0 s.klen1.toNat) (readRow s.m2 0 s.klen2.toNat))[i]? = some r →
        readRow x i (s.klen1.toNat - i) = r) ∧
      (∀ (i : Nat) (r : List Byte),
        (buildMatrix (readRow s.m2 0 s.klen2.toNat) (readRow s.m1 0 s.klen1.toNat))[i]? = some r →
        readRow y i (s.klen2.toNat - i) = r) ∧
      (∀ a, (∀ i j, 1 ≤ i → i ≤ ceilHalf s.klen1.toNat → j < s.klen1.toNat - i → a ≠ matrixCell i j) →
        x.read a = s.m1.read a) ∧
      (∀ a, (∀ i j, 1 ≤ i → i ≤ ceilHalf s.klen2.toNat → j < s.klen2.toNat - i → a ≠ matrixCell i j) →
        y.read a = s.m2.read a)

/-! ### The pure functions -/

/-- 40_oddtable_arith.md R110, R111: the tables. -/
def Obligations.InverseTable : Prop :=
  ∀ x : TableIndex, (oddTable x).toNat = 2 * x.toNat + 1 ∧ (oddTable x).toNat * (invTable x).toNat % 256 = 1 ∧
    (invTable x).toNat % 2 = 1

/-- 43_mixer_rk.md R155: the mixing byte as a sum over rows `0 .. stop - 1`, and the two mixing bytes of a position. -/
def Obligations.MixIsTheRowSum : Prop :=
  (∀ (t L : Nat) (m : Memory), (mix t m L).toNat =
    ((List.range ((L + 1) / 2)).map fun i => (m.read (matrixCell i (t % (L - i)))).toNat).sum % 256) ∧
  ∀ (s : State) (t : Nat), mixBytes s t = (mix t s.m1 s.klen1.toNat, mix t s.m2 s.klen2.toNat)

/-- R156, R157: the mixer reads only cells inside rows `0 .. stop - 1`; the last generated row takes no part. -/
def Obligations.MixIgnoresLastRow : Prop :=
  ∀ (t L : Nat) (m m' : Memory), 1 ≤ L →
    (∀ i j, i < (L + 1) / 2 → j < L - i → m.read (matrixCell i j) = m'.read (matrixCell i j)) →
    mix t m L = mix t m' L

/-- R160: `RKEncrypt` over the integers with the floored `mod`. -/
def Obligations.RkEncryptFormula : Prop :=
  ∀ p b1 b2 : Byte,
    let rk := (b1.toNat + b2.toNat) % 256 / 2
    let temp : Int := ((2 * rk + 1) * p.toNat + b1.toNat - b2.toNat : Int) % 256
    ((rkEncrypt p b1 b2).toNat : Int) = temp * (2 * (127 - rk) + 1) % 256

/-- R163: decryption undoes encryption for all bytes and all mixing bytes, and the converse. -/
def Obligations.RkRoundTrip : Prop :=
  ∀ p b1 b2 : Byte, rkDecrypt (rkEncrypt p b1 b2) b1 b2 = p ∧ rkEncrypt (rkDecrypt p b1 b2) b1 b2 = p

/-- R161: an 8-bit datapath that drops carries and borrows computes the same bytes. -/
def Obligations.RkEightBitDatapath : Prop :=
  ∀ x b1 b2 : Byte,
    rkEncrypt x b1 b2 = (oddTable (rkIndex b1 b2) * x + b1 - b2) * oddTable (rkMirror (rkIndex b1 b2)) ∧
    rkDecrypt x b1 b2 = (x * invTable (rkMirror (rkIndex b1 b2)) - b1 + b2) * invTable (rkIndex b1 b2)

/-- 41_keys_advisor.md R125, closed form: the smallest `k ≥ 2` with `2.65^(k-1) ≥ size`, 2.65 being 53/20. -/
def Obligations.AdvisorIsSmallestLength : Prop :=
  ∀ size : Nat, 1 ≤ size → size ≤ 2 ^ 56 - 1 → ∃ k, advisor size = some k ∧ 2 ≤ k ∧ k ≤ 41 ∧
    size * 20 ^ (k - 1) ≤ 53 ^ (k - 1) ∧ ∀ j, 2 ≤ j → j < k → 53 ^ (j - 1) < size * 20 ^ (j - 1)

/-- R125, R126: the table form agrees with NR's loop over exact rationals, from `k = 2` and `growth = 53/20`. -/
def Obligations.AdvisorRunsGrowthLoop : Prop :=
  ∀ size : Nat, 1 ≤ size → size ≤ 2 ^ 56 - 1 → advisor size = some (advisorLoop size 40 2 53 20)

/-- 45_checksum_mac.md R194: a change of `CSUM` by `2^k`, `0 ≤ k ≤ 7`, changes all four MAC components. -/
def Obligations.SingleBitChangesEveryMac : Prop :=
  ∀ c k : Nat, k ≤ 7 → (macOf (c + 2 ^ k)).1 ≠ (macOf c).1 ∧ (macOf (c + 2 ^ k)).2.1 ≠ (macOf c).2.1 ∧
    (macOf (c + 2 ^ k)).2.2.1 ≠ (macOf c).2.2.1 ∧ (macOf (c + 2 ^ k)).2.2.2 ≠ (macOf c).2.2.2

/-! ### The streaming steps -/

/-- 44_stream_processor.md R173: the fetch step reads `min(CHUNK, SIZE - POS)` bytes at `POS` into `BUF` when the store
serves the range (its answer: assumption 2, the model's choice). -/
def Obligations.FetchReadsChunk : Prop :=
  ∀ s : State, s.host = [] → s.busy = true → s.phase = .streaming → s.sstep = .fetch →
    s.pos.toNat < s.size.toNat → nextReply s = .ok →
    s.pos.toNat + min s.chunk.toNat (s.size.toNat - s.pos.toNat) ≤ s.storeLen →
    ∃ b : Memory, step s = .next
      { s with cbase := s.pos, clen := BitVec.ofNat 64 (min s.chunk.toNat (s.size.toNat - s.pos.toNat)), buf := b,
               sstep := .xform, tape := s.tape.tail, draws := s.draws + 1 } ∧
      (∀ o, o < min s.chunk.toNat (s.size.toNat - s.pos.toNat) → b.read o = s.store.read (s.pos.toNat + o)) ∧
      ∀ o, min s.chunk.toNat (s.size.toNat - s.pos.toNat) ≤ o → b.read o = s.buf.read o

/-- R173, 60_exceptions.md R223, R227: a failed read is StoreAccessFailure 1; `CBASE` and `CLEN` have been written, `BUF`,
`POS`, `CSUM` and the store have not. The store's answer is that of assumptions 2 and 17. -/
def Obligations.FetchFailureIsFatal : Prop :=
  ∀ s : State, s.host = [] → s.busy = true → s.phase = .streaming → s.sstep = .fetch → s.pos ≠ s.size →
    nextReply s = .fail ∨ s.storeLen < s.pos.toNat + min s.chunk.toNat (s.size.toNat - s.pos.toNat) →
    step s = .next
      { s with cbase := s.pos, clen := BitVec.ofNat 64 (min s.chunk.toNat (s.size.toNat - s.pos.toNat)),
               tape := s.tape.tail, draws := s.draws + 1, err := 0x0102, errinfo := s.pos, phase := .fatal,
               busy := false, evt := true }

/-- R174, R179, R180: the transform step replaces every byte of the chunk by its transform at its absolute position,
advances `POS` by one a byte and adds the ciphertext bytes to `CSUM`. -/
def Obligations.TransformStepTransformsChunk : Prop :=
  ∀ s : State, s.host = [] → s.busy = true → s.phase = .streaming → s.sstep = .xform →
    s.pos.toNat + s.clen.toNat < 2 ^ 64 → s.csum.toNat + 255 * s.clen.toNat < 2 ^ 64 →
    ∃ (b : Memory) (pos csum : Word64),
      step s = .next { s with buf := b, pos := pos, csum := csum, sstep := .wback } ∧
      (∀ o, o < s.clen.toNat → b.read o = passByte s (s.pos.toNat + o) (s.buf.read o)) ∧
      (∀ o, s.clen.toNat ≤ o → b.read o = s.buf.read o) ∧
      pos.toNat = s.pos.toNat + s.clen.toNat ∧
      csum.toNat = s.csum.toNat + ((List.range s.clen.toNat).map fun o =>
        (if s.dir then s.buf.read o else b.read o).toNat).sum

/-- R177, 20_memory.md R69: a served write-back writes exactly the chunk's range (the store's answer: assumption 2,
the model's choice). -/
def Obligations.WritebackStoresChunk : Prop :=
  ∀ s : State, s.host = [] → s.busy = true → s.phase = .streaming → s.sstep = .wback → nextReply s = .ok →
    s.cbase.toNat + s.clen.toNat ≤ s.storeLen →
    ∃ m : Memory, step s = .next
      { s with store := m, sstep := .fetch, tape := s.tape.tail, draws := s.draws + 1 } ∧
      ∀ a, m.read a = if s.cbase.toNat ≤ a ∧ a < s.cbase.toNat + s.clen.toNat then s.buf.read (a - s.cbase.toNat)
        else s.store.read a

/-- R177, 20_memory.md R72, 60_exceptions.md R223: a failed write-back is StoreAccessFailure 2; the store keeps every byte
outside the range, and nothing is said of the bytes inside it (free values, assumption 3). That a store too short for the
range fails is 20_memory.md R70 (assumption 17); its answer is that of assumption 2. -/
def Obligations.WritebackFailureIsFatal : Prop :=
  ∀ s : State, s.host = [] → s.busy = true → s.phase = .streaming → s.sstep = .wback →
    nextReply s = .fail ∨ s.storeLen < s.cbase.toNat + s.clen.toNat →
    ∃ m : Memory, step s = .next
      { s with store := m, tape := s.tape.tail, draws := s.draws + 1, err := 0x0202, errinfo := s.cbase,
               phase := .fatal, busy := false, evt := true } ∧
      ∀ a, a < s.cbase.toNat ∨ s.cbase.toNat + s.clen.toNat ≤ a → m.read a = s.store.read a

/-- 45_checksum_mac.md R190, R191: at the end of the stream the four residues are reported. -/
def Obligations.FinalizeReportsMac : Prop :=
  ∀ s : State, s.host = [] → s.busy = true → s.phase = .streaming → s.sstep = .fetch → s.pos = s.size →
    ∃ a b c d : Byte, step s = .next
      { s with mac0 := a, mac1 := b, mac2 := c, mac3 := d, phase := .finalized, busy := false, evt := true } ∧
      a.toNat = s.csum.toNat % 233 ∧ b.toNat = s.csum.toNat % 239 ∧ c.toNat = s.csum.toNat % 241 ∧
      d.toNat = s.csum.toNat % 251

/-! ### Rules of the whole machine -/

/-- 46_session_control.md R200: the phase changes only by the listed transitions, each by its cause. The cause of an entry
to FATAL is a Fatal entry (60_exceptions.md R226), which leaves `BUSY = 0`, `EVT = 1` and in `ERR` one of R221's causes. -/
def Obligations.PhaseTransitions : Prop :=
  ∀ s t : State, step s = .next t → t.phase = s.phase ∨
    (s.phase = .init ∧ t.phase = .keysAccepted ∧ s.busy = false ∧ nextCommand s = some .kaccept ∧
      (1 ≤ s.size.toNat ∧ s.size.toNat ≤ 2 ^ 56 - 1) ∧ (1 ≤ s.chunk.toNat ∧ s.chunk.toNat ≤ 1048576) ∧
      s.klen1 ≠ 0 ∧ s.klen2 ≠ 0 ∧
      (s.enforce = true → ∃ k, advisor s.size.toNat = some k ∧ k ≤ s.klen1.toNat ∧ k ≤ s.klen2.toNat)) ∨
    (s.phase = .keysAccepted ∧ t.phase = .matricesBuilt ∧ s.busy = true) ∨
    (s.phase = .matricesBuilt ∧ t.phase = .streaming ∧ s.busy = false ∧
      (nextCommand s = some .enc ∨ nextCommand s = some .dec)) ∨
    (s.phase = .streaming ∧ t.phase = .finalized ∧ s.busy = true ∧ s.sstep = .fetch ∧ s.pos = s.size) ∨
    (s.phase ≠ .fatal ∧ t.phase = .fatal ∧ t.busy = false ∧ t.evt = true ∧ errCode t ≠ 0 ∧
      ∃ c : Cause, c ≠ .arithmeticInvariant ∧ t.err = c.err) ∨
    (t.phase = .init ∧ (s.busy = false ∧ nextCommand s = some .sinit ∨ s.host.head? = some .rst))

/-- 10_state.md R25, R29, 70_reset_and_hazards.md R258: from KACCEPT to the end of the session `SIZE`, `CHUNK`, `KLEN1`,
`KLEN2` do not change. 45_checksum_mac.md R191, 60_exceptions.md R226: what FINALIZED and FATAL leave to be read, `POS`,
`CSUM`, the MAC, `DIR` and `STRENGTH`, is kept by every step that carries out neither SINIT nor `rst`; such a step does not
end in INIT. -/
def Obligations.ParametersFixedAfterAcceptance : Prop :=
  ∀ s t : State, step s = .next t →
    (s.phase ≠ .init → t.phase ≠ .init →
      t.size = s.size ∧ t.chunk = s.chunk ∧ t.klen1 = s.klen1 ∧ t.klen2 = s.klen2) ∧
    (s.phase = .finalized ∨ s.phase = .fatal →
      nextCommand s ≠ some .sinit ∧ s.host.head? ≠ some .rst → t.phase = .finalized ∨ t.phase = .fatal) ∧
    (s.phase = .finalized ∨ s.phase = .fatal → t.phase ≠ .init →
      t.pos = s.pos ∧ t.csum = s.csum ∧ t.mac0 = s.mac0 ∧ t.mac1 = s.mac1 ∧ t.mac2 = s.mac2 ∧ t.mac3 = s.mac3 ∧
      t.dir = s.dir ∧ t.strength = s.strength)

/-- 60_exceptions.md R230, 10_state.md R35: in FATAL the first cause is kept. -/
def Obligations.FirstFatalCauseKept : Prop :=
  ∀ s t : State, step s = .next t → s.phase = .fatal → t.phase = .fatal → t.err = s.err ∧ t.errinfo = s.errinfo

/-- 10_state.md R28: `EVT` falls only by ACK, SINIT or reset, and `BUSY` falls only with `EVT` set, but for reset. -/
def Obligations.EventFlagRules : Prop :=
  ∀ s t : State, step s = .next t →
    (s.evt = true → t.evt = false →
      nextCommand s = some .ack ∨ nextCommand s = some .sinit ∨ s.host.head? = some .rst) ∧
    (s.busy = true → t.busy = false → t.evt = true ∨ s.host.head? = some .rst)

/-- 60_exceptions.md R231: `irq` is `IE` and `EVT`, and it falls only by ACK, SINIT, reset or a write to `CTRL` that clears
`IE`. -/
def Obligations.IrqIsEnabledEvent : Prop :=
  ∀ s t : State, step s = .next t →
    irq s = (s.ie && s.evt) ∧
    (irq s = true → irq t = false →
      nextCommand s = some .ack ∨ nextCommand s = some .sinit ∨ s.host.head? = some .rst ∨
      ∃ (d : Word64) (ms : List HostMove), s.host = .write 2 d :: ms ∧ d.getLsbD 0 = false)

/-- 10_state.md R24: `CTRL` changes only by a host write to it and by reset. -/
def Obligations.CtrlChangesOnlyByHostOrReset : Prop :=
  ∀ s t : State, step s = .next t → t.ie = s.ie ∧ t.enforce = s.enforce ∨
    (∃ (d : Word64) (ms : List HostMove), s.host = .write 2 d :: ms ∧ t.ie = d.getLsbD 0 ∧ t.enforce = d.getLsbD 1) ∨
    (s.host.head? = some .rst ∧ t.ie = false ∧ t.enforce = true)

/-- 10_state.md R45: the invariant holds at reset. Its last four items, the canonical form of the memories, are the model's
choice (assumptions 4 and 6). -/
def Obligations.InvariantAtReset : Prop := Inv State.reset

/-- 10_state.md R45: every step keeps the invariant, from every state that meets it. Its last four items, the canonical form
of the memories, are the model's choice (assumptions 4 and 6). -/
def Obligations.InvariantKeptByEveryStep : Prop := ∀ s t : State, Inv s → step s = .next t → Inv t

/-- A corollary about runs of 10_state.md R27, R45 item 1: no run from a state that meets the invariant stops with a fault. The fault is the model's
own (assumption 10). -/
def Obligations.RunsNeverFault : Prop := ∀ s : State, Inv s → Safe s

/-- 44_stream_processor.md R175, R176, R178, 45_checksum_mac.md R191, 70_reset_and_hazards.md R260: with no host move in between, an
accepted pass over a store that serves every access ends in FINALIZED after `3 × ⌈SIZE/CHUNK⌉ + 1` core steps with every
byte of `[0, SIZE)` transformed, no other byte changed, and `CSUM` the sum of the ciphertext bytes. That the store's answers are a list is the model's choice (assumption 2). -/
def Obligations.PassTransformsWholeStore : Prop :=
  ∀ s : State, PassReady s →
    ∃ t : State, Sys2Proof.core.run (3 * chunkCount s + 1) s = .next t ∧
      t.phase = .finalized ∧ t.busy = false ∧ t.evt = true ∧ t.pos = s.size ∧
      (∀ a, t.store.read a = if a < s.size.toNat then passByte s a (s.store.read a) else s.store.read a) ∧
      t.csum.toNat = ((List.range s.size.toNat).map fun a => (cipherByte s a).toNat).sum ∧
      t.mac0.toNat = t.csum.toNat % 233 ∧ t.mac1.toNat = t.csum.toNat % 239 ∧
      t.mac2.toNat = t.csum.toNat % 241 ∧ t.mac3.toNat = t.csum.toNat % 251

/-- R184, R185: a DEC pass with the same matrices, key lengths and `SIZE` over what an ENC pass left gives the data back
and reports the same checksum and MAC, whatever the two chunk sizes, with no host move during either pass.
That the store's answers are a list is the model's choice (assumption 2). -/
def Obligations.DecryptionPassUndoesEncryptionPass : Prop :=
  ∀ s t u v : State, PassReady s → s.dir = false → Sys2Proof.core.run (3 * chunkCount s + 1) s = .next t →
    PassReady u → u.dir = true → u.m1 = s.m1 → u.m2 = s.m2 → u.klen1 = s.klen1 → u.klen2 = s.klen2 →
    u.size = s.size → (∀ a, a < s.size.toNat → u.store.read a = t.store.read a) →
    Sys2Proof.core.run (3 * chunkCount u + 1) u = .next v →
    (∀ a, a < s.size.toNat → v.store.read a = s.store.read a) ∧ v.csum = t.csum ∧
    v.mac0 = t.mac0 ∧ v.mac1 = t.mac1 ∧ v.mac2 = t.mac2 ∧ v.mac3 = t.mac3
end

