-- ==== Sys2Proof/Laws/Memory.lean ====
section
/-! SUPPORT. The laws of the sparse memories: what a read gives after a write, and that every operation keeps the
canonical form. -/

namespace Sys2Proof.Machine

@[simp] theorem Memory.read_nil (x : Nat) : Memory.read [] x = 0 := rfl

theorem Memory.read_cons (c : Host.Cell) (m : Memory) (x : Nat) :
    Memory.read (c :: m) x = if x = c.1 then c.2 else m.read x := rfl

/-- A memory that lists nothing at `x` reads 0 there. -/
theorem Memory.read_of_unlisted : ∀ (m : Memory) (x : Nat), (∀ c ∈ m, c.1 ≠ x) → m.read x = 0
  | [], _, _ => rfl
  | c :: m, x, h => by
    rw [Memory.read_cons, if_neg (fun e => h c (by simp) e.symm)]
    exact Memory.read_of_unlisted m x fun d hd => h d (by simp [hd])

theorem Memory.read_append_right : ∀ (m m' : Memory) (x : Nat), (∀ c ∈ m, c.1 ≠ x) →
    Memory.read (m ++ m') x = m'.read x
  | [], _, _, _ => rfl
  | c :: m, m', x, h => by
    rw [List.cons_append, Memory.read_cons, if_neg (fun e => h c (by simp) e.symm)]
    exact Memory.read_append_right m m' x fun d hd => h d (by simp [hd])

theorem Memory.read_append_left : ∀ (m m' : Memory) (x : Nat), (∀ c ∈ m', c.1 ≠ x) →
    Memory.read (m ++ m') x = m.read x
  | [], m', x, h => Memory.read_of_unlisted m' x h
  | c :: m, m', x, h => by
    rw [List.cons_append, Memory.read_cons, Memory.read_cons, Memory.read_append_left m m' x h]

/-- Leaving out pairs at other addresses does not change what `x` reads. -/
theorem Memory.read_filter (p : Host.Cell → Bool) : ∀ (m : Memory) (x : Nat), (∀ c ∈ m, c.1 = x → p c = true) →
    Memory.read (m.filter p) x = m.read x
  | [], _, _ => rfl
  | c :: m, x, h => by
    have ih := Memory.read_filter p m x fun d hd => h d (by simp [hd])
    by_cases hp : p c = true
    · rw [List.filter_cons_of_pos hp, Memory.read_cons, Memory.read_cons, ih]
    · have hx : x ≠ c.1 := fun e => hp (h c (by simp) e.symm)
      rw [List.filter_cons_of_neg hp, Memory.read_cons, if_neg hx, ih]

/-- The pairs of `cells a bytes` lie in the range. -/
theorem Memory.cells_range : ∀ (bytes : List Byte) (a : Nat) (c : Host.Cell), c ∈ Memory.cells a bytes →
    a ≤ c.1 ∧ c.1 < a + bytes.length
  | [], _, _, h => by simp [Memory.cells] at h
  | v :: vs, a, c, h => by
    simp only [Memory.cells] at h
    split at h
    · have := Memory.cells_range vs (a + 1) c h
      simp only [List.length_cons]; omega
    · rcases List.mem_cons.1 h with rfl | h
      · simp
      · have := Memory.cells_range vs (a + 1) c h
        simp only [List.length_cons]; omega

theorem Memory.read_cells : ∀ (bytes : List Byte) (a o : Nat),
    Memory.read (Memory.cells a bytes) (a + o) = bytes.getD o 0
  | [], _, _ => by simp [Memory.cells]
  | v :: vs, a, 0 => by
    simp only [Memory.cells, Nat.add_zero, List.getD_cons_zero]
    split
    · next hv =>
      rw [Memory.read_of_unlisted _ _ fun c hc e => by have := Memory.cells_range vs _ c hc; omega, hv]
    · simp [Memory.read_cons]
  | v :: vs, a, o + 1 => by
    have ih := Memory.read_cells vs (a + 1) o
    rw [show a + 1 + o = a + (o + 1) by omega] at ih
    simp only [Memory.cells, List.getD_cons_succ]
    split
    · exact ih
    · rw [Memory.read_cons, if_neg (by simp), ih]

/-- Inside the written range a read gives the byte written there. -/
theorem Memory.read_writeRange_inside (m : Memory) (a : Nat) (bytes : List Byte) (o : Nat) (h : o < bytes.length) :
    (m.writeRange a bytes).read (a + o) = bytes.getD o 0 := by
  unfold Memory.writeRange
  rw [Memory.read_append_left _ _ _ fun c hc e => by
      have := (List.mem_filter.1 hc).2; simp only [decide_eq_true_eq] at this; omega,
    Memory.read_append_right _ _ _ fun c hc e => by
      have := (List.mem_filter.1 hc).2; simp only [decide_eq_true_eq] at this; omega,
    Memory.read_cells]

/-- Outside the written range a read gives what it gave before. -/
theorem Memory.read_writeRange_outside (m : Memory) (a : Nat) (bytes : List Byte) (x : Nat)
    (h : x < a ∨ a + bytes.length ≤ x) : (m.writeRange a bytes).read x = m.read x := by
  unfold Memory.writeRange
  rcases h with h | h
  · rw [Memory.read_append_left _ _ _ fun c hc e => by
        have := (List.mem_filter.1 hc).2; simp only [decide_eq_true_eq] at this; omega,
      Memory.read_append_left _ _ _ fun c hc e => by have := Memory.cells_range _ _ c hc; omega,
      Memory.read_filter _ _ _ fun c _ e => by simp only [decide_eq_true_eq]; omega]
  · rw [Memory.read_append_right _ _ _ fun c hc e => by
        rcases List.mem_append.1 hc with hc | hc
        · have := (List.mem_filter.1 hc).2; simp only [decide_eq_true_eq] at this; omega
        · have := Memory.cells_range _ _ c hc; omega,
      Memory.read_filter _ _ _ fun c _ e => by simp only [decide_eq_true_eq]; omega]

/-- What a read gives after a range write, in one equation. -/
theorem Memory.read_writeRange (m : Memory) (a : Nat) (bytes : List Byte) (x : Nat) :
    (m.writeRange a bytes).read x =
      if a ≤ x ∧ x < a + bytes.length then bytes.getD (x - a) 0 else m.read x := by
  split
  · next h =>
    have := Memory.read_writeRange_inside m a bytes (x - a) (by omega)
    rwa [show a + (x - a) = x by omega] at this
  · exact Memory.read_writeRange_outside m a bytes x (by omega)

theorem Memory.read_write (m : Memory) (a x : Nat) (v : Byte) :
    (m.write a v).read x = if x = a then v else m.read x := by
  unfold Memory.write
  rw [Memory.read_writeRange]
  by_cases h : x = a
  · subst h; simp
  · rw [if_neg (by simp only [List.length_cons, List.length_nil]; omega), if_neg h]

@[simp] theorem Memory.readRange_length (m : Memory) (a n : Nat) : (m.readRange a n).length = n := by
  simp [Memory.readRange]

theorem Memory.readRange_getD (m : Memory) (a n o : Nat) (h : o < n) : (m.readRange a n).getD o 0 = m.read (a + o) := by
  simp [Memory.readRange, List.getD_eq_getElem?_getD, h]

/-- Two ranges are equal when their bytes read the same. -/
theorem Memory.readRange_congr (m m' : Memory) (a a' n : Nat) (h : ∀ o, o < n → m.read (a + o) = m'.read (a' + o)) :
    m.readRange a n = m'.readRange a' n :=
  List.map_congr_left fun o ho => h o (List.mem_range.1 ho)

/-- Reading back the range just written gives the bytes written. -/
theorem Memory.readRange_writeRange (m : Memory) (a : Nat) (bytes : List Byte) :
    (m.writeRange a bytes).readRange a bytes.length = bytes := by
  apply List.ext_getElem (by simp)
  intro o h1 h2
  have := Memory.read_writeRange_inside m a bytes o h2
  simp [Memory.readRange, this, List.getD_eq_getElem?_getD, h2]

/-! ### The canonical form -/

theorem Memory.wf_cons (c : Host.Cell) (m : Memory) :
    Memory.wf (c :: m) = true ↔ c.2 ≠ 0 ∧ (∀ d ∈ m, c.1 < d.1) ∧ Memory.wf m = true := by
  obtain ⟨a, v⟩ := c
  simp [Memory.wf, and_assoc]

theorem Memory.wf_append : ∀ (m m' : Memory), Memory.wf m = true → Memory.wf m' = true →
    (∀ c ∈ m, ∀ d ∈ m', c.1 < d.1) → Memory.wf (m ++ m') = true
  | [], _, _, h', _ => h'
  | c :: m, m', h, h', hlt => by
    obtain ⟨h0, h1, h2⟩ := (Memory.wf_cons c m).1 h
    refine (Memory.wf_cons c (m ++ m')).2 ⟨h0, fun d hd => ?_, ?_⟩
    · rcases List.mem_append.1 hd with hd | hd
      · exact h1 d hd
      · exact hlt c (by simp) d hd
    · exact Memory.wf_append m m' h2 h' fun x hx => hlt x (by simp [hx])

theorem Memory.wf_filter (p : Host.Cell → Bool) : ∀ m : Memory, Memory.wf m = true → Memory.wf (m.filter p) = true
  | [], _ => rfl
  | c :: m, h => by
    obtain ⟨h0, h1, h2⟩ := (Memory.wf_cons c m).1 h
    by_cases hp : p c = true
    · rw [List.filter_cons_of_pos hp]
      exact (Memory.wf_cons c _).2 ⟨h0, fun d hd => h1 d (List.mem_filter.1 hd).1, Memory.wf_filter p m h2⟩
    · rw [List.filter_cons_of_neg hp]
      exact Memory.wf_filter p m h2

theorem Memory.wf_cells : ∀ (bytes : List Byte) (a : Nat), Memory.wf (Memory.cells a bytes) = true
  | [], _ => rfl
  | v :: vs, a => by
    simp only [Memory.cells]
    split
    · exact Memory.wf_cells vs (a + 1)
    · next hv =>
      refine (Memory.wf_cons _ _).2 ⟨hv, fun d hd => ?_, Memory.wf_cells vs (a + 1)⟩
      have := Memory.cells_range vs (a + 1) d hd
      omega

/-- A range write keeps the canonical form. -/
theorem Memory.wf_writeRange (m : Memory) (a : Nat) (bytes : List Byte) (h : Memory.wf m = true) :
    Memory.wf (m.writeRange a bytes) = true := by
  unfold Memory.writeRange
  refine Memory.wf_append _ _ (Memory.wf_append _ _ (Memory.wf_filter _ m h) (Memory.wf_cells bytes a) ?_)
    (Memory.wf_filter _ m h) ?_
  · intro c hc d hd
    have h1 := (List.mem_filter.1 hc).2
    have h2 := Memory.cells_range bytes a d hd
    simp only [decide_eq_true_eq] at h1; omega
  · intro c hc d hd
    have h2 := (List.mem_filter.1 hd).2
    simp only [decide_eq_true_eq] at h2
    rcases List.mem_append.1 hc with hc | hc
    · have h1 := (List.mem_filter.1 hc).2
      simp only [decide_eq_true_eq] at h1; omega
    · have h1 := Memory.cells_range bytes a c hc
      omega

/-- A write of one byte keeps the canonical form. -/
theorem Memory.wf_write (m : Memory) (a : Nat) (v : Byte) (h : Memory.wf m = true) : Memory.wf (m.write a v) = true :=
  Memory.wf_writeRange m a [v] h

/-- Storing rows keeps the canonical form. -/
theorem Memory.wf_storeRows : ∀ (rows : List (List Byte)) (m : Memory) (i : Nat), Memory.wf m = true →
    Memory.wf (storeRows m i rows) = true
  | [], _, _, h => h
  | row :: rows, m, i, h => Memory.wf_storeRows rows _ (i + 1) (Memory.wf_writeRange m _ row h)

/-- Canonical memories that read the same everywhere are the same data. -/
theorem Memory.ext_of_wf : ∀ m m' : Memory, Memory.wf m = true → Memory.wf m' = true →
    (∀ x, m.read x = m'.read x) → m = m'
  | [], [], _, _, _ => rfl
  | [], d :: m', _, h', hr => by
    have hd := hr d.1
    simp only [Memory.read_nil, Memory.read_cons, if_true] at hd
    exact absurd hd.symm ((Memory.wf_cons d m').1 h').1
  | c :: m, [], h, _, hr => by
    have hc := hr c.1
    simp only [Memory.read_nil, Memory.read_cons, if_true] at hc
    exact absurd hc ((Memory.wf_cons c m).1 h).1
  | c :: m, d :: m', h, h', hr => by
    obtain ⟨hc0, hc1, hc2⟩ := (Memory.wf_cons c m).1 h
    obtain ⟨hd0, hd1, hd2⟩ := (Memory.wf_cons d m').1 h'
    have hkey : c.1 = d.1 := by
      rcases Nat.lt_trichotomy c.1 d.1 with hlt | heq | hlt
      · have := hr c.1
        rw [Memory.read_cons, if_pos rfl, Memory.read_cons, if_neg (by omega),
          Memory.read_of_unlisted m' _ fun e he heq => by have := hd1 e he; omega] at this
        exact absurd this hc0
      · exact heq
      · have := hr d.1
        rw [Memory.read_cons, if_neg (by omega), Memory.read_cons, if_pos rfl,
          Memory.read_of_unlisted m _ fun e he heq => by have := hc1 e he; omega] at this
        exact absurd this.symm hd0
    have hval : c.2 = d.2 := by
      have := hr c.1
      rwa [Memory.read_cons, if_pos rfl, Memory.read_cons, if_pos hkey] at this
    have htail : m = m' := Memory.ext_of_wf m m' hc2 hd2 fun x => by
      by_cases hx : x = c.1
      · rw [Memory.read_of_unlisted m x fun e he heq => by have := hc1 e he; omega,
          Memory.read_of_unlisted m' x fun e he heq => by have := hd1 e he; omega]
      · have := hr x
        rwa [Memory.read_cons, if_neg hx, Memory.read_cons, if_neg (hkey ▸ hx)] at this
    rw [htail, Prod.ext hkey hval]

end Sys2Proof.Machine
end

