-- ==== Sys2Proof/Laws/State.lean ====
section
/-! SUPPORT. One lemma per field per update of the state, each true by rfl. -/

namespace Sys2Proof.Machine

/-! ### reply -/

@[simp] theorem reply_phase (a : Answer) (s : State) : (s.reply a).phase = s.phase := rfl
@[simp] theorem reply_busy (a : Answer) (s : State) : (s.reply a).busy = s.busy := rfl
@[simp] theorem reply_evt (a : Answer) (s : State) : (s.reply a).evt = s.evt := rfl
@[simp] theorem reply_dir (a : Answer) (s : State) : (s.reply a).dir = s.dir := rfl
@[simp] theorem reply_ie (a : Answer) (s : State) : (s.reply a).ie = s.ie := rfl
@[simp] theorem reply_enforce (a : Answer) (s : State) : (s.reply a).enforce = s.enforce := rfl
@[simp] theorem reply_size (a : Answer) (s : State) : (s.reply a).size = s.size := rfl
@[simp] theorem reply_chunk (a : Answer) (s : State) : (s.reply a).chunk = s.chunk := rfl
@[simp] theorem reply_klen1 (a : Answer) (s : State) : (s.reply a).klen1 = s.klen1 := rfl
@[simp] theorem reply_klen2 (a : Answer) (s : State) : (s.reply a).klen2 = s.klen2 := rfl
@[simp] theorem reply_strength (a : Answer) (s : State) : (s.reply a).strength = s.strength := rfl
@[simp] theorem reply_pos (a : Answer) (s : State) : (s.reply a).pos = s.pos := rfl
@[simp] theorem reply_csum (a : Answer) (s : State) : (s.reply a).csum = s.csum := rfl
@[simp] theorem reply_mac0 (a : Answer) (s : State) : (s.reply a).mac0 = s.mac0 := rfl
@[simp] theorem reply_mac1 (a : Answer) (s : State) : (s.reply a).mac1 = s.mac1 := rfl
@[simp] theorem reply_mac2 (a : Answer) (s : State) : (s.reply a).mac2 = s.mac2 := rfl
@[simp] theorem reply_mac3 (a : Answer) (s : State) : (s.reply a).mac3 = s.mac3 := rfl
@[simp] theorem reply_err (a : Answer) (s : State) : (s.reply a).err = s.err := rfl
@[simp] theorem reply_errinfo (a : Answer) (s : State) : (s.reply a).errinfo = s.errinfo := rfl
@[simp] theorem reply_m1 (a : Answer) (s : State) : (s.reply a).m1 = s.m1 := rfl
@[simp] theorem reply_m2 (a : Answer) (s : State) : (s.reply a).m2 = s.m2 := rfl
@[simp] theorem reply_buf (a : Answer) (s : State) : (s.reply a).buf = s.buf := rfl
@[simp] theorem reply_cbase (a : Answer) (s : State) : (s.reply a).cbase = s.cbase := rfl
@[simp] theorem reply_clen (a : Answer) (s : State) : (s.reply a).clen = s.clen := rfl
@[simp] theorem reply_sstep (a : Answer) (s : State) : (s.reply a).sstep = s.sstep := rfl
@[simp] theorem reply_store (a : Answer) (s : State) : (s.reply a).store = s.store := rfl
@[simp] theorem reply_storeLen (a : Answer) (s : State) : (s.reply a).storeLen = s.storeLen := rfl
@[simp] theorem reply_host (a : Answer) (s : State) : (s.reply a).host = s.host := rfl
@[simp] theorem reply_answers (a : Answer) (s : State) : (s.reply a).answers = a :: s.answers := rfl
@[simp] theorem reply_tape (a : Answer) (s : State) : (s.reply a).tape = s.tape := rfl
@[simp] theorem reply_draws (a : Answer) (s : State) : (s.reply a).draws = s.draws := rfl

/-! ### drawn -/

@[simp] theorem drawn_phase (s : State) : (s.drawn).phase = s.phase := rfl
@[simp] theorem drawn_busy (s : State) : (s.drawn).busy = s.busy := rfl
@[simp] theorem drawn_evt (s : State) : (s.drawn).evt = s.evt := rfl
@[simp] theorem drawn_dir (s : State) : (s.drawn).dir = s.dir := rfl
@[simp] theorem drawn_ie (s : State) : (s.drawn).ie = s.ie := rfl
@[simp] theorem drawn_enforce (s : State) : (s.drawn).enforce = s.enforce := rfl
@[simp] theorem drawn_size (s : State) : (s.drawn).size = s.size := rfl
@[simp] theorem drawn_chunk (s : State) : (s.drawn).chunk = s.chunk := rfl
@[simp] theorem drawn_klen1 (s : State) : (s.drawn).klen1 = s.klen1 := rfl
@[simp] theorem drawn_klen2 (s : State) : (s.drawn).klen2 = s.klen2 := rfl
@[simp] theorem drawn_strength (s : State) : (s.drawn).strength = s.strength := rfl
@[simp] theorem drawn_pos (s : State) : (s.drawn).pos = s.pos := rfl
@[simp] theorem drawn_csum (s : State) : (s.drawn).csum = s.csum := rfl
@[simp] theorem drawn_mac0 (s : State) : (s.drawn).mac0 = s.mac0 := rfl
@[simp] theorem drawn_mac1 (s : State) : (s.drawn).mac1 = s.mac1 := rfl
@[simp] theorem drawn_mac2 (s : State) : (s.drawn).mac2 = s.mac2 := rfl
@[simp] theorem drawn_mac3 (s : State) : (s.drawn).mac3 = s.mac3 := rfl
@[simp] theorem drawn_err (s : State) : (s.drawn).err = s.err := rfl
@[simp] theorem drawn_errinfo (s : State) : (s.drawn).errinfo = s.errinfo := rfl
@[simp] theorem drawn_m1 (s : State) : (s.drawn).m1 = s.m1 := rfl
@[simp] theorem drawn_m2 (s : State) : (s.drawn).m2 = s.m2 := rfl
@[simp] theorem drawn_buf (s : State) : (s.drawn).buf = s.buf := rfl
@[simp] theorem drawn_cbase (s : State) : (s.drawn).cbase = s.cbase := rfl
@[simp] theorem drawn_clen (s : State) : (s.drawn).clen = s.clen := rfl
@[simp] theorem drawn_sstep (s : State) : (s.drawn).sstep = s.sstep := rfl
@[simp] theorem drawn_store (s : State) : (s.drawn).store = s.store := rfl
@[simp] theorem drawn_storeLen (s : State) : (s.drawn).storeLen = s.storeLen := rfl
@[simp] theorem drawn_host (s : State) : (s.drawn).host = s.host := rfl
@[simp] theorem drawn_answers (s : State) : (s.drawn).answers = s.answers := rfl
@[simp] theorem drawn_tape (s : State) : (s.drawn).tape = s.tape.tail := rfl
@[simp] theorem drawn_draws (s : State) : (s.drawn).draws = s.draws + 1 := rfl

/-! ### raiseFatal -/

@[simp] theorem raiseFatal_phase (c : Cause) (info : Word64) (s : State) : (raiseFatal c info s).phase = .fatal := rfl
@[simp] theorem raiseFatal_busy (c : Cause) (info : Word64) (s : State) : (raiseFatal c info s).busy = false := rfl
@[simp] theorem raiseFatal_evt (c : Cause) (info : Word64) (s : State) : (raiseFatal c info s).evt = true := rfl
@[simp] theorem raiseFatal_dir (c : Cause) (info : Word64) (s : State) : (raiseFatal c info s).dir = s.dir := rfl
@[simp] theorem raiseFatal_ie (c : Cause) (info : Word64) (s : State) : (raiseFatal c info s).ie = s.ie := rfl
@[simp] theorem raiseFatal_enforce (c : Cause) (info : Word64) (s : State) : (raiseFatal c info s).enforce = s.enforce := rfl
@[simp] theorem raiseFatal_size (c : Cause) (info : Word64) (s : State) : (raiseFatal c info s).size = s.size := rfl
@[simp] theorem raiseFatal_chunk (c : Cause) (info : Word64) (s : State) : (raiseFatal c info s).chunk = s.chunk := rfl
@[simp] theorem raiseFatal_klen1 (c : Cause) (info : Word64) (s : State) : (raiseFatal c info s).klen1 = s.klen1 := rfl
@[simp] theorem raiseFatal_klen2 (c : Cause) (info : Word64) (s : State) : (raiseFatal c info s).klen2 = s.klen2 := rfl
@[simp] theorem raiseFatal_strength (c : Cause) (info : Word64) (s : State) : (raiseFatal c info s).strength = s.strength := rfl
@[simp] theorem raiseFatal_pos (c : Cause) (info : Word64) (s : State) : (raiseFatal c info s).pos = s.pos := rfl
@[simp] theorem raiseFatal_csum (c : Cause) (info : Word64) (s : State) : (raiseFatal c info s).csum = s.csum := rfl
@[simp] theorem raiseFatal_mac0 (c : Cause) (info : Word64) (s : State) : (raiseFatal c info s).mac0 = s.mac0 := rfl
@[simp] theorem raiseFatal_mac1 (c : Cause) (info : Word64) (s : State) : (raiseFatal c info s).mac1 = s.mac1 := rfl
@[simp] theorem raiseFatal_mac2 (c : Cause) (info : Word64) (s : State) : (raiseFatal c info s).mac2 = s.mac2 := rfl
@[simp] theorem raiseFatal_mac3 (c : Cause) (info : Word64) (s : State) : (raiseFatal c info s).mac3 = s.mac3 := rfl
@[simp] theorem raiseFatal_err (c : Cause) (info : Word64) (s : State) : (raiseFatal c info s).err = c.err := rfl
@[simp] theorem raiseFatal_errinfo (c : Cause) (info : Word64) (s : State) : (raiseFatal c info s).errinfo = info := rfl
@[simp] theorem raiseFatal_m1 (c : Cause) (info : Word64) (s : State) : (raiseFatal c info s).m1 = s.m1 := rfl
@[simp] theorem raiseFatal_m2 (c : Cause) (info : Word64) (s : State) : (raiseFatal c info s).m2 = s.m2 := rfl
@[simp] theorem raiseFatal_buf (c : Cause) (info : Word64) (s : State) : (raiseFatal c info s).buf = s.buf := rfl
@[simp] theorem raiseFatal_cbase (c : Cause) (info : Word64) (s : State) : (raiseFatal c info s).cbase = s.cbase := rfl
@[simp] theorem raiseFatal_clen (c : Cause) (info : Word64) (s : State) : (raiseFatal c info s).clen = s.clen := rfl
@[simp] theorem raiseFatal_sstep (c : Cause) (info : Word64) (s : State) : (raiseFatal c info s).sstep = s.sstep := rfl
@[simp] theorem raiseFatal_store (c : Cause) (info : Word64) (s : State) : (raiseFatal c info s).store = s.store := rfl
@[simp] theorem raiseFatal_storeLen (c : Cause) (info : Word64) (s : State) : (raiseFatal c info s).storeLen = s.storeLen := rfl
@[simp] theorem raiseFatal_host (c : Cause) (info : Word64) (s : State) : (raiseFatal c info s).host = s.host := rfl
@[simp] theorem raiseFatal_answers (c : Cause) (info : Word64) (s : State) : (raiseFatal c info s).answers = s.answers := rfl
@[simp] theorem raiseFatal_tape (c : Cause) (info : Word64) (s : State) : (raiseFatal c info s).tape = s.tape := rfl
@[simp] theorem raiseFatal_draws (c : Cause) (info : Word64) (s : State) : (raiseFatal c info s).draws = s.draws := rfl

/-! ### endSession -/

@[simp] theorem endSession_phase (s : State) : (endSession s).phase = .init := rfl
@[simp] theorem endSession_busy (s : State) : (endSession s).busy = false := rfl
@[simp] theorem endSession_evt (s : State) : (endSession s).evt = false := rfl
@[simp] theorem endSession_dir (s : State) : (endSession s).dir = false := rfl
@[simp] theorem endSession_ie (s : State) : (endSession s).ie = s.ie := rfl
@[simp] theorem endSession_enforce (s : State) : (endSession s).enforce = s.enforce := rfl
@[simp] theorem endSession_size (s : State) : (endSession s).size = 0 := rfl
@[simp] theorem endSession_chunk (s : State) : (endSession s).chunk = 1048576 := rfl
@[simp] theorem endSession_klen1 (s : State) : (endSession s).klen1 = 0 := rfl
@[simp] theorem endSession_klen2 (s : State) : (endSession s).klen2 = 0 := rfl
@[simp] theorem endSession_strength (s : State) : (endSession s).strength = 0 := rfl
@[simp] theorem endSession_pos (s : State) : (endSession s).pos = 0 := rfl
@[simp] theorem endSession_csum (s : State) : (endSession s).csum = 0 := rfl
@[simp] theorem endSession_mac0 (s : State) : (endSession s).mac0 = 0 := rfl
@[simp] theorem endSession_mac1 (s : State) : (endSession s).mac1 = 0 := rfl
@[simp] theorem endSession_mac2 (s : State) : (endSession s).mac2 = 0 := rfl
@[simp] theorem endSession_mac3 (s : State) : (endSession s).mac3 = 0 := rfl
@[simp] theorem endSession_err (s : State) : (endSession s).err = 0 := rfl
@[simp] theorem endSession_errinfo (s : State) : (endSession s).errinfo = 0 := rfl
@[simp] theorem endSession_m1 (s : State) : (endSession s).m1 = [] := rfl
@[simp] theorem endSession_m2 (s : State) : (endSession s).m2 = [] := rfl
@[simp] theorem endSession_buf (s : State) : (endSession s).buf = [] := rfl
@[simp] theorem endSession_cbase (s : State) : (endSession s).cbase = 0 := rfl
@[simp] theorem endSession_clen (s : State) : (endSession s).clen = 0 := rfl
@[simp] theorem endSession_sstep (s : State) : (endSession s).sstep = .fetch := rfl
@[simp] theorem endSession_store (s : State) : (endSession s).store = s.store := rfl
@[simp] theorem endSession_storeLen (s : State) : (endSession s).storeLen = s.storeLen := rfl
@[simp] theorem endSession_host (s : State) : (endSession s).host = s.host := rfl
@[simp] theorem endSession_answers (s : State) : (endSession s).answers = s.answers := rfl
@[simp] theorem endSession_tape (s : State) : (endSession s).tape = s.tape := rfl
@[simp] theorem endSession_draws (s : State) : (endSession s).draws = s.draws := rfl

/-! ### hardReset -/

@[simp] theorem hardReset_phase (s : State) : (hardReset s).phase = .init := rfl
@[simp] theorem hardReset_busy (s : State) : (hardReset s).busy = false := rfl
@[simp] theorem hardReset_evt (s : State) : (hardReset s).evt = false := rfl
@[simp] theorem hardReset_dir (s : State) : (hardReset s).dir = false := rfl
@[simp] theorem hardReset_ie (s : State) : (hardReset s).ie = false := rfl
@[simp] theorem hardReset_enforce (s : State) : (hardReset s).enforce = true := rfl
@[simp] theorem hardReset_size (s : State) : (hardReset s).size = 0 := rfl
@[simp] theorem hardReset_chunk (s : State) : (hardReset s).chunk = 1048576 := rfl
@[simp] theorem hardReset_klen1 (s : State) : (hardReset s).klen1 = 0 := rfl
@[simp] theorem hardReset_klen2 (s : State) : (hardReset s).klen2 = 0 := rfl
@[simp] theorem hardReset_strength (s : State) : (hardReset s).strength = 0 := rfl
@[simp] theorem hardReset_pos (s : State) : (hardReset s).pos = 0 := rfl
@[simp] theorem hardReset_csum (s : State) : (hardReset s).csum = 0 := rfl
@[simp] theorem hardReset_mac0 (s : State) : (hardReset s).mac0 = 0 := rfl
@[simp] theorem hardReset_mac1 (s : State) : (hardReset s).mac1 = 0 := rfl
@[simp] theorem hardReset_mac2 (s : State) : (hardReset s).mac2 = 0 := rfl
@[simp] theorem hardReset_mac3 (s : State) : (hardReset s).mac3 = 0 := rfl
@[simp] theorem hardReset_err (s : State) : (hardReset s).err = 0 := rfl
@[simp] theorem hardReset_errinfo (s : State) : (hardReset s).errinfo = 0 := rfl
@[simp] theorem hardReset_m1 (s : State) : (hardReset s).m1 = [] := rfl
@[simp] theorem hardReset_m2 (s : State) : (hardReset s).m2 = [] := rfl
@[simp] theorem hardReset_buf (s : State) : (hardReset s).buf = [] := rfl
@[simp] theorem hardReset_cbase (s : State) : (hardReset s).cbase = 0 := rfl
@[simp] theorem hardReset_clen (s : State) : (hardReset s).clen = 0 := rfl
@[simp] theorem hardReset_sstep (s : State) : (hardReset s).sstep = .fetch := rfl
@[simp] theorem hardReset_store (s : State) : (hardReset s).store = s.store := rfl
@[simp] theorem hardReset_storeLen (s : State) : (hardReset s).storeLen = s.storeLen := rfl
@[simp] theorem hardReset_host (s : State) : (hardReset s).host = s.host := rfl
@[simp] theorem hardReset_answers (s : State) : (hardReset s).answers = s.answers := rfl
@[simp] theorem hardReset_tape (s : State) : (hardReset s).tape = s.tape := rfl
@[simp] theorem hardReset_draws (s : State) : (hardReset s).draws = s.draws := rfl

/-! ### startPass -/

@[simp] theorem startPass_phase (d : Bool) (s : State) : (startPass d s).phase = .streaming := rfl
@[simp] theorem startPass_busy (d : Bool) (s : State) : (startPass d s).busy = true := rfl
@[simp] theorem startPass_evt (d : Bool) (s : State) : (startPass d s).evt = s.evt := rfl
@[simp] theorem startPass_dir (d : Bool) (s : State) : (startPass d s).dir = d := rfl
@[simp] theorem startPass_ie (d : Bool) (s : State) : (startPass d s).ie = s.ie := rfl
@[simp] theorem startPass_enforce (d : Bool) (s : State) : (startPass d s).enforce = s.enforce := rfl
@[simp] theorem startPass_size (d : Bool) (s : State) : (startPass d s).size = s.size := rfl
@[simp] theorem startPass_chunk (d : Bool) (s : State) : (startPass d s).chunk = s.chunk := rfl
@[simp] theorem startPass_klen1 (d : Bool) (s : State) : (startPass d s).klen1 = s.klen1 := rfl
@[simp] theorem startPass_klen2 (d : Bool) (s : State) : (startPass d s).klen2 = s.klen2 := rfl
@[simp] theorem startPass_strength (d : Bool) (s : State) : (startPass d s).strength = s.strength := rfl
@[simp] theorem startPass_pos (d : Bool) (s : State) : (startPass d s).pos = 0 := rfl
@[simp] theorem startPass_csum (d : Bool) (s : State) : (startPass d s).csum = 0 := rfl
@[simp] theorem startPass_mac0 (d : Bool) (s : State) : (startPass d s).mac0 = s.mac0 := rfl
@[simp] theorem startPass_mac1 (d : Bool) (s : State) : (startPass d s).mac1 = s.mac1 := rfl
@[simp] theorem startPass_mac2 (d : Bool) (s : State) : (startPass d s).mac2 = s.mac2 := rfl
@[simp] theorem startPass_mac3 (d : Bool) (s : State) : (startPass d s).mac3 = s.mac3 := rfl
@[simp] theorem startPass_err (d : Bool) (s : State) : (startPass d s).err = s.err := rfl
@[simp] theorem startPass_errinfo (d : Bool) (s : State) : (startPass d s).errinfo = s.errinfo := rfl
@[simp] theorem startPass_m1 (d : Bool) (s : State) : (startPass d s).m1 = s.m1 := rfl
@[simp] theorem startPass_m2 (d : Bool) (s : State) : (startPass d s).m2 = s.m2 := rfl
@[simp] theorem startPass_buf (d : Bool) (s : State) : (startPass d s).buf = s.buf := rfl
@[simp] theorem startPass_cbase (d : Bool) (s : State) : (startPass d s).cbase = s.cbase := rfl
@[simp] theorem startPass_clen (d : Bool) (s : State) : (startPass d s).clen = s.clen := rfl
@[simp] theorem startPass_sstep (d : Bool) (s : State) : (startPass d s).sstep = .fetch := rfl
@[simp] theorem startPass_store (d : Bool) (s : State) : (startPass d s).store = s.store := rfl
@[simp] theorem startPass_storeLen (d : Bool) (s : State) : (startPass d s).storeLen = s.storeLen := rfl
@[simp] theorem startPass_host (d : Bool) (s : State) : (startPass d s).host = s.host := rfl
@[simp] theorem startPass_answers (d : Bool) (s : State) : (startPass d s).answers = s.answers := rfl
@[simp] theorem startPass_tape (d : Bool) (s : State) : (startPass d s).tape = s.tape := rfl
@[simp] theorem startPass_draws (d : Bool) (s : State) : (startPass d s).draws = s.draws := rfl

/-! ### finalizeStep -/

@[simp] theorem finalizeStep_phase (s : State) : (finalizeStep s).phase = .finalized := rfl
@[simp] theorem finalizeStep_busy (s : State) : (finalizeStep s).busy = false := rfl
@[simp] theorem finalizeStep_evt (s : State) : (finalizeStep s).evt = true := rfl
@[simp] theorem finalizeStep_dir (s : State) : (finalizeStep s).dir = s.dir := rfl
@[simp] theorem finalizeStep_ie (s : State) : (finalizeStep s).ie = s.ie := rfl
@[simp] theorem finalizeStep_enforce (s : State) : (finalizeStep s).enforce = s.enforce := rfl
@[simp] theorem finalizeStep_size (s : State) : (finalizeStep s).size = s.size := rfl
@[simp] theorem finalizeStep_chunk (s : State) : (finalizeStep s).chunk = s.chunk := rfl
@[simp] theorem finalizeStep_klen1 (s : State) : (finalizeStep s).klen1 = s.klen1 := rfl
@[simp] theorem finalizeStep_klen2 (s : State) : (finalizeStep s).klen2 = s.klen2 := rfl
@[simp] theorem finalizeStep_strength (s : State) : (finalizeStep s).strength = s.strength := rfl
@[simp] theorem finalizeStep_pos (s : State) : (finalizeStep s).pos = s.pos := rfl
@[simp] theorem finalizeStep_csum (s : State) : (finalizeStep s).csum = s.csum := rfl
@[simp] theorem finalizeStep_mac0 (s : State) : (finalizeStep s).mac0 = BitVec.ofNat 8 (s.csum.toNat % 233) := rfl
@[simp] theorem finalizeStep_mac1 (s : State) : (finalizeStep s).mac1 = BitVec.ofNat 8 (s.csum.toNat % 239) := rfl
@[simp] theorem finalizeStep_mac2 (s : State) : (finalizeStep s).mac2 = BitVec.ofNat 8 (s.csum.toNat % 241) := rfl
@[simp] theorem finalizeStep_mac3 (s : State) : (finalizeStep s).mac3 = BitVec.ofNat 8 (s.csum.toNat % 251) := rfl
@[simp] theorem finalizeStep_err (s : State) : (finalizeStep s).err = s.err := rfl
@[simp] theorem finalizeStep_errinfo (s : State) : (finalizeStep s).errinfo = s.errinfo := rfl
@[simp] theorem finalizeStep_m1 (s : State) : (finalizeStep s).m1 = s.m1 := rfl
@[simp] theorem finalizeStep_m2 (s : State) : (finalizeStep s).m2 = s.m2 := rfl
@[simp] theorem finalizeStep_buf (s : State) : (finalizeStep s).buf = s.buf := rfl
@[simp] theorem finalizeStep_cbase (s : State) : (finalizeStep s).cbase = s.cbase := rfl
@[simp] theorem finalizeStep_clen (s : State) : (finalizeStep s).clen = s.clen := rfl
@[simp] theorem finalizeStep_sstep (s : State) : (finalizeStep s).sstep = s.sstep := rfl
@[simp] theorem finalizeStep_store (s : State) : (finalizeStep s).store = s.store := rfl
@[simp] theorem finalizeStep_storeLen (s : State) : (finalizeStep s).storeLen = s.storeLen := rfl
@[simp] theorem finalizeStep_host (s : State) : (finalizeStep s).host = s.host := rfl
@[simp] theorem finalizeStep_answers (s : State) : (finalizeStep s).answers = s.answers := rfl
@[simp] theorem finalizeStep_tape (s : State) : (finalizeStep s).tape = s.tape := rfl
@[simp] theorem finalizeStep_draws (s : State) : (finalizeStep s).draws = s.draws := rfl

/-! ### buildStep -/

@[simp] theorem buildStep_phase (s : State) : (buildStep s).phase = .matricesBuilt := rfl
@[simp] theorem buildStep_busy (s : State) : (buildStep s).busy = false := rfl
@[simp] theorem buildStep_evt (s : State) : (buildStep s).evt = true := rfl
@[simp] theorem buildStep_dir (s : State) : (buildStep s).dir = s.dir := rfl
@[simp] theorem buildStep_ie (s : State) : (buildStep s).ie = s.ie := rfl
@[simp] theorem buildStep_enforce (s : State) : (buildStep s).enforce = s.enforce := rfl
@[simp] theorem buildStep_size (s : State) : (buildStep s).size = s.size := rfl
@[simp] theorem buildStep_chunk (s : State) : (buildStep s).chunk = s.chunk := rfl
@[simp] theorem buildStep_klen1 (s : State) : (buildStep s).klen1 = s.klen1 := rfl
@[simp] theorem buildStep_klen2 (s : State) : (buildStep s).klen2 = s.klen2 := rfl
@[simp] theorem buildStep_strength (s : State) : (buildStep s).strength = s.strength := rfl
@[simp] theorem buildStep_pos (s : State) : (buildStep s).pos = s.pos := rfl
@[simp] theorem buildStep_csum (s : State) : (buildStep s).csum = s.csum := rfl
@[simp] theorem buildStep_mac0 (s : State) : (buildStep s).mac0 = s.mac0 := rfl
@[simp] theorem buildStep_mac1 (s : State) : (buildStep s).mac1 = s.mac1 := rfl
@[simp] theorem buildStep_mac2 (s : State) : (buildStep s).mac2 = s.mac2 := rfl
@[simp] theorem buildStep_mac3 (s : State) : (buildStep s).mac3 = s.mac3 := rfl
@[simp] theorem buildStep_err (s : State) : (buildStep s).err = s.err := rfl
@[simp] theorem buildStep_errinfo (s : State) : (buildStep s).errinfo = s.errinfo := rfl
@[simp] theorem buildStep_m1 (s : State) : (buildStep s).m1 = storeRows s.m1 1 (generatedRows (readRow s.m1 0 s.klen1.toNat) (readRow s.m2 0 s.klen2.toNat)) := rfl
@[simp] theorem buildStep_m2 (s : State) : (buildStep s).m2 = storeRows s.m2 1 (generatedRows (readRow s.m2 0 s.klen2.toNat) (readRow s.m1 0 s.klen1.toNat)) := rfl
@[simp] theorem buildStep_buf (s : State) : (buildStep s).buf = s.buf := rfl
@[simp] theorem buildStep_cbase (s : State) : (buildStep s).cbase = s.cbase := rfl
@[simp] theorem buildStep_clen (s : State) : (buildStep s).clen = s.clen := rfl
@[simp] theorem buildStep_sstep (s : State) : (buildStep s).sstep = s.sstep := rfl
@[simp] theorem buildStep_store (s : State) : (buildStep s).store = s.store := rfl
@[simp] theorem buildStep_storeLen (s : State) : (buildStep s).storeLen = s.storeLen := rfl
@[simp] theorem buildStep_host (s : State) : (buildStep s).host = s.host := rfl
@[simp] theorem buildStep_answers (s : State) : (buildStep s).answers = s.answers := rfl
@[simp] theorem buildStep_tape (s : State) : (buildStep s).tape = s.tape := rfl
@[simp] theorem buildStep_draws (s : State) : (buildStep s).draws = s.draws := rfl

end Sys2Proof.Machine
end

