-- ==== Sys2Proof/Laws/Ops.lean ====
section
/-! SUPPORT. One lemma for each shared operation that says everything it can do. -/

namespace Sys2Proof.Machine

/-- The gate of the commands answers a next state always. -/
theorem command_completes (i : Instr) (effect : State → State) (s : State) : ∃ t, command i effect s = .next t := by
  unfold command; split
  · exact ⟨_, rfl⟩
  · split
    · exact ⟨_, rfl⟩
    · split <;> exact ⟨_, rfl⟩

/-- What the gate of the commands can do. -/
theorem command_cases {i : Instr} {effect : State → State} {s t : State} (h : command i effect s = .next t) :
    ((s.busy = true ∨ s.phase = .fatal ∧ runsInFatal i = false) ∧ t = s.reply .err) ∨
    (s.busy = false ∧ (s.phase = .fatal → runsInFatal i = true) ∧ legalIn i s.phase = true ∧
      t = (effect s).reply .done) ∨
    (s.busy = false ∧ s.phase ≠ .fatal ∧ legalIn i s.phase = false ∧
      t = (raiseFatal .wrongPhase (encode i) s).reply .done) := by
  unfold command at h
  split at h
  · next hb => injection h with h; exact .inl ⟨.inl hb, h.symm⟩
  · next hb =>
    split at h
    · next hf => injection h with h; exact .inl ⟨.inr hf, h.symm⟩
    · next hf =>
      have hb' : s.busy = false := by simpa using hb
      split at h
      · next hl =>
        injection h with h
        exact .inr (.inl ⟨hb', fun e => by simpa [e] using hf, hl, h.symm⟩)
      · next hl =>
        injection h with h
        refine .inr (.inr ⟨hb', fun e => ?_, by simpa using hl, h.symm⟩)
        cases i <;> simp_all [runsInFatal, legalIn]

/-- A legal command of an idle core has its own effect and is answered OK. -/
theorem command_legal {i : Instr} {effect : State → State} {s : State} (hb : s.busy = false)
    (hf : s.phase = .fatal → runsInFatal i = true) (hl : legalIn i s.phase = true) :
    command i effect s = .next ((effect s).reply .done) := by
  unfold command
  rw [if_neg (by simp [hb]), if_neg (by rintro ⟨h1, h2⟩; simp [hf h1] at h2), if_pos hl]

/-- What the rejection of an illegal word can do. -/
theorem rejectWord_cases {e : IllegalWord} {d : Word64} {s t : State} (h : rejectWord e d s = .next t) :
    ((s.busy = true ∨ s.phase = .fatal) ∧ t = s.reply .err) ∨
    (s.busy = false ∧ s.phase ≠ .fatal ∧ t = (raiseFatal (illegalCause e) d s).reply .done) := by
  unfold rejectWord at h
  split at h
  · next hb => injection h with h; exact .inl ⟨.inl hb, h.symm⟩
  · next hb =>
    split at h
    · next hf => injection h with h; exact .inl ⟨.inr hf, h.symm⟩
    · next hf => injection h with h; exact .inr ⟨by simpa using hb, hf, h.symm⟩

/-- What KPUSH1's effect can be. -/
theorem pushKey1_cases (b : Byte) (s : State) :
    (s.klen1.toNat = 255 ∧ pushKey1 b s = raiseFatal .key1Full 0 s) ∨
    (s.klen1.toNat < 255 ∧
      pushKey1 b s = { s with m1 := s.m1.write (matrixCell 0 s.klen1.toNat) b, klen1 := s.klen1 + 1 }) := by
  have := s.klen1.isLt
  unfold pushKey1 Config.lmax
  split
  · exact .inl ⟨‹_›, rfl⟩
  · exact .inr ⟨by omega, rfl⟩

/-- What KPUSH2's effect can be. -/
theorem pushKey2_cases (b : Byte) (s : State) :
    (s.klen2.toNat = 255 ∧ pushKey2 b s = raiseFatal .key2Full 0 s) ∨
    (s.klen2.toNat < 255 ∧
      pushKey2 b s = { s with m2 := s.m2.write (matrixCell 0 s.klen2.toNat) b, klen2 := s.klen2 + 1 }) := by
  have := s.klen2.isLt
  unfold pushKey2 Config.lmax
  split
  · exact .inl ⟨‹_›, rfl⟩
  · exact .inr ⟨by omega, rfl⟩

/-- What holds when all six of KACCEPT's checks pass. -/
def ChecksPass (s : State) : Prop :=
  sizeLegal s.size = true ∧ chunkLegal s.chunk = true ∧ s.klen1 ≠ 0 ∧ s.klen2 ≠ 0 ∧
    (s.enforce = true → belowMinimum s.klen1.toNat s.size.toNat = false ∧ belowMinimum s.klen2.toNat s.size.toNat = false)

/-- Which of KACCEPT's checks can fail, and what holds when none does. -/
theorem acceptFailure_cases (s : State) :
    (∃ c ∈ [Cause.sizeIllegal, .chunkIllegal, .key1Empty, .key2Empty, .key1Short, .key2Short],
      acceptFailure s = some c) ∨
    (ChecksPass s ∧ acceptFailure s = none) := by
  unfold acceptFailure
  split
  · exact .inl ⟨_, by simp, rfl⟩
  · next h1 =>
    split
    · exact .inl ⟨_, by simp, rfl⟩
    · next h2 =>
      split
      · exact .inl ⟨_, by simp, rfl⟩
      · next h3 =>
        split
        · exact .inl ⟨_, by simp, rfl⟩
        · next h4 =>
          split
          · exact .inl ⟨_, by simp, rfl⟩
          · next h5 =>
            split
            · exact .inl ⟨_, by simp, rfl⟩
            · next h6 =>
              exact .inr ⟨⟨by simpa using h1, by simpa using h2, h3, h4, fun he => by simpa [he] using And.intro h5 h6⟩, rfl⟩

/-- What the effect of KACCEPT can be: one of six Fatal entries, or the phase KEYS_ACCEPTED with its checks passed. -/
theorem acceptKeys_cases (s : State) :
    (∃ c ∈ [Cause.sizeIllegal, .chunkIllegal, .key1Empty, .key2Empty, .key1Short, .key2Short],
      acceptKeys s = raiseFatal c 0 s) ∨
    (ChecksPass s ∧ acceptKeys s = { s with strength := strengthOf s.klen1 s.klen2, phase := .keysAccepted }) := by
  unfold acceptKeys
  rcases acceptFailure_cases s with ⟨c, hc, e⟩ | ⟨hc, e⟩ <;> rw [e]
  · exact .inl ⟨c, hc, rfl⟩
  · exact .inr ⟨hc, rfl⟩

/-- The legal sizes. -/
theorem sizeLegal_iff (v : Word64) : sizeLegal v = true ↔ 1 ≤ v.toNat ∧ v.toNat ≤ 72057594037927935 := by
  unfold sizeLegal; rw [Bool.and_eq_true, decide_eq_true_eq, decide_eq_true_eq]; rfl

/-- The legal chunk sizes. -/
theorem chunkLegal_iff (v : Word64) : chunkLegal v = true ↔ 1 ≤ v.toNat ∧ v.toNat ≤ 1048576 := by
  unfold chunkLegal; rw [Bool.and_eq_true, decide_eq_true_eq, decide_eq_true_eq]; rfl

/-- Storing rows leaves every lower row alone. -/
theorem read_storeRows_below : ∀ (rows : List (List Byte)) (m : Memory) (i x : Nat), x < matrixCell i 0 →
    (storeRows m i rows).read x = m.read x
  | [], _, _, _, _ => rfl
  | row :: rows, m, i, x, h => by
    have h' : x < matrixCell (i + 1) 0 := by simp only [matrixCell] at *; omega
    rw [storeRows, read_storeRows_below rows _ _ _ h', Memory.read_writeRange_outside _ _ _ _ (.inl h)]

/-- Storing rows leaves every cell outside them alone. -/
theorem read_storeRows_outside : ∀ (rows : List (List Byte)) (m : Memory) (i x : Nat),
    (∀ (k : Nat) (hk : k < rows.length) (o : Nat), o < (rows[k]).length → x ≠ matrixCell (i + k) o) →
    (storeRows m i rows).read x = m.read x
  | [], _, _, _, _ => rfl
  | row :: rows, m, i, x, h => by
    rw [storeRows, read_storeRows_outside rows _ (i + 1) x fun k hk o ho => by
      have := h (k + 1) (by simpa using hk) o (by simpa using ho)
      rwa [show i + 1 + k = i + (k + 1) by omega]]
    apply Memory.read_writeRange_outside
    by_contra hx
    have := h 0 (by simp) (x - matrixCell i 0) (by simp only [List.getElem_cons_zero]; omega)
    simp only [matrixCell] at *
    omega

/-- What a row reads as after rows of at most 255 bytes have been stored. -/
theorem readRow_storeRows : ∀ (rows : List (List Byte)) (m : Memory) (i k : Nat) (hk : k < rows.length),
    (∀ r ∈ rows, r.length ≤ 255) → readRow (storeRows m i rows) (i + k) (rows[k]).length = rows[k]
  | [], _, _, _, hk, _ => by simp at hk
  | row :: rows, m, i, 0, _, hl => by
    have h255 := hl row (by simp)
    simp only [List.getElem_cons_zero, Nat.add_zero, storeRows, readRow]
    rw [← Memory.readRange_writeRange m (matrixCell i 0) row]
    simp only [Memory.readRange_length]
    apply Memory.readRange_congr
    intro o ho
    rw [Memory.readRange_writeRange]
    exact read_storeRows_below rows _ _ _ (by simp only [matrixCell]; omega)
  | row :: rows, m, i, k + 1, hk, hl => by
    have := readRow_storeRows rows (m.writeRange (matrixCell i 0) row) (i + 1) k (by simpa using hk)
      fun r hr => hl r (by simp [hr])
    simpa [storeRows, show i + 1 + k = i + (k + 1) by omega] using this

end Sys2Proof.Machine
end

