-- ==== Sys2Proof/Laws/PerInstr.lean ====
section
/-! SUPPORT. The family of lemmas made per instruction: an encoded command is selected by its own row of R93's map and has
clear reserved bits. -/

namespace Sys2Proof.Laws

/-- The encoded command is selected by the row of R93's map that has its mnemonic, and bits 63:16 are 0. -/
def OpcodeInMap.Statement (i : Instr) : Prop :=
  (opcodeMap.any fun r => r.mnemonic == i.mnemonic && r.selects ((encode i).extractLsb' 0 16)) = true ∧
    reservedBitsClear (encode i) = true

theorem OpcodeInMap.nop : OpcodeInMap.Statement .nop := by
  unfold OpcodeInMap.Statement; decide

theorem OpcodeInMap.sinit : OpcodeInMap.Statement .sinit := by
  unfold OpcodeInMap.Statement; decide

theorem OpcodeInMap.kpush1 (b : Byte) : OpcodeInMap.Statement (.kpush1 b) := by
  unfold OpcodeInMap.Statement; revert b; decide

theorem OpcodeInMap.kpush2 (b : Byte) : OpcodeInMap.Statement (.kpush2 b) := by
  unfold OpcodeInMap.Statement; revert b; decide

theorem OpcodeInMap.kaccept : OpcodeInMap.Statement .kaccept := by
  unfold OpcodeInMap.Statement; decide

theorem OpcodeInMap.build : OpcodeInMap.Statement .build := by
  unfold OpcodeInMap.Statement; decide

theorem OpcodeInMap.enc : OpcodeInMap.Statement .enc := by
  unfold OpcodeInMap.Statement; decide

theorem OpcodeInMap.dec : OpcodeInMap.Statement .dec := by
  unfold OpcodeInMap.Statement; decide

theorem OpcodeInMap.ack : OpcodeInMap.Statement .ack := by
  unfold OpcodeInMap.Statement; decide

end Sys2Proof.Laws
end

