-- ==== Sys2Proof/Laws/Stream.lean ====
section
/-! SUPPORT. What the streaming steps can do, said once for each. -/

namespace Sys2Proof.Machine

/-- What the fetch step asks of the store: the chunk is recorded and one answer is used up. -/
def State.asked (s : State) : State :=
  { s.drawn with cbase := s.pos, clen := BitVec.ofNat 64 (chunkLength s) }

/-- The fetch step finalizes, fetches a chunk, or enters FATAL. -/
theorem fetchStep_cases (s : State) :
    (s.pos = s.size ∧ fetchStep s = finalizeStep s) ∨
    (s.pos ≠ s.size ∧ storeServes s.pos.toNat (chunkLength s) s = true ∧
      fetchStep s = { s.asked with
        buf := s.buf.writeRange 0 (s.store.readRange s.pos.toNat (chunkLength s)), sstep := .xform }) ∨
    (s.pos ≠ s.size ∧ storeServes s.pos.toNat (chunkLength s) s = false ∧
      fetchStep s = raiseFatal .readFailed s.pos s.asked) := by
  unfold fetchStep
  split
  · exact .inl ⟨‹_›, rfl⟩
  · next hne =>
    dsimp only
    split
    · exact .inr (.inl ⟨hne, ‹_›, rfl⟩)
    · next hf => exact .inr (.inr ⟨hne, by simpa using hf, rfl⟩)

/-- The write-back step writes the chunk back, or loses its range and enters FATAL. -/
theorem wbackStep_cases (s : State) :
    (storeServes s.cbase.toNat s.clen.toNat s = true ∧
      wbackStep s = { s.drawn with
        store := s.store.writeRange s.cbase.toNat (s.buf.readRange 0 s.clen.toNat), sstep := .fetch }) ∨
    (storeServes s.cbase.toNat s.clen.toNat s = false ∧
      wbackStep s = raiseFatal .writeFailed s.cbase
        { s.drawn with store := s.store.writeRange s.cbase.toNat (lostBytes s.cbase.toNat s.clen.toNat s) }) := by
  unfold wbackStep
  dsimp only
  split
  · exact .inl ⟨‹_›, rfl⟩
  · next hf => exact .inr ⟨by simpa using hf, rfl⟩

/-- The bytes a failed write loses lie in its range. -/
theorem lostBytes_length_le (a n : Nat) (s : State) : (lostBytes a n s).length ≤ n := by
  simp [lostBytes]

/-- The transform step as one equation. -/
theorem xformStep_eq (s : State) :
    xformStep s =
      { s with
        buf := s.buf.writeRange 0 (transformBytes s (s.buf.readRange 0 s.clen.toNat) s.pos s.csum).1
        pos := (transformBytes s (s.buf.readRange 0 s.clen.toNat) s.pos s.csum).2.1
        csum := (transformBytes s (s.buf.readRange 0 s.clen.toNat) s.pos s.csum).2.2
        sstep := .wback } := rfl

theorem transformBytes_length (s : State) : ∀ (xs : List Byte) (pos csum : Word64),
    (transformBytes s xs pos csum).1.length = xs.length
  | [], _, _ => rfl
  | x :: xs, pos, csum => by
    simp only [transformBytes, List.length_cons, transformBytes_length s xs]

/-- `POS` advances exactly once per byte (44_stream_processor.md R179). -/
theorem transformBytes_pos (s : State) : ∀ (xs : List Byte) (pos csum : Word64),
    pos.toNat + xs.length < 2 ^ 64 → (transformBytes s xs pos csum).2.1.toNat = pos.toNat + xs.length
  | [], _, _, _ => rfl
  | x :: xs, pos, csum, h => by
    simp only [List.length_cons] at h
    have hp : (pos + 1).toNat = pos.toNat + 1 := by
      rw [BitVec.toNat_add, show (1 : Word64).toNat = 1 from rfl, Nat.mod_eq_of_lt (by omega)]
    have := transformBytes_pos s xs (pos + 1) (csum + (transformByte s pos.toNat x).2.setWidth 64) (by omega)
    simp only [transformBytes, List.length_cons]
    omega

/-- Byte `o` of the transformed buffer is the transform of byte `o` at position `POS + o` (R174, R179). -/
theorem transformBytes_getD (s : State) : ∀ (xs : List Byte) (pos csum : Word64) (o : Nat),
    pos.toNat + xs.length < 2 ^ 64 → o < xs.length →
    (transformBytes s xs pos csum).1.getD o 0 = (transformByte s (pos.toNat + o) (xs.getD o 0)).1
  | [], _, _, _, _, h => by simp at h
  | x :: xs, pos, csum, 0, _, _ => rfl
  | x :: xs, pos, csum, o + 1, h, ho => by
    simp only [List.length_cons] at h ho
    have hp : (pos + 1).toNat = pos.toNat + 1 := by
      rw [BitVec.toNat_add, show (1 : Word64).toNat = 1 from rfl, Nat.mod_eq_of_lt (by omega)]
    have := transformBytes_getD s xs (pos + 1) (csum + (transformByte s pos.toNat x).2.setWidth 64) o
      (by omega) (by omega)
    simp only [transformBytes, List.getD_cons_succ, this, hp, show pos.toNat + 1 + o = pos.toNat + (o + 1) by omega]

/-- The bytes that `CSUM` gains over `xs` from position `pos` on (R180). -/
def checksumGain (s : State) : List Byte → Nat → Nat
  | [], _ => 0
  | x :: xs, pos => (transformByte s pos x).2.toNat + checksumGain s xs (pos + 1)

theorem checksumGain_le (s : State) : ∀ (xs : List Byte) (pos : Nat), checksumGain s xs pos ≤ 255 * xs.length
  | [], _ => by simp [checksumGain]
  | x :: xs, pos => by
    have := checksumGain_le s xs (pos + 1)
    have := (transformByte s pos x).2.isLt
    simp only [checksumGain, List.length_cons]; omega

/-- `CSUM` gains the sum of the ciphertext bytes, without wrapping (10_state.md R33). -/
theorem transformBytes_csum (s : State) : ∀ (xs : List Byte) (pos csum : Word64),
    pos.toNat + xs.length < 2 ^ 64 → csum.toNat + 255 * xs.length < 2 ^ 64 →
    (transformBytes s xs pos csum).2.2.toNat = csum.toNat + checksumGain s xs pos.toNat
  | [], _, _, _, _ => rfl
  | x :: xs, pos, csum, h, hc => by
    simp only [List.length_cons] at h hc
    have hb := (transformByte s pos.toNat x).2.isLt
    have hp : (pos + 1).toNat = pos.toNat + 1 := by
      rw [BitVec.toNat_add, show (1 : Word64).toNat = 1 from rfl, Nat.mod_eq_of_lt (by omega)]
    have hs : (csum + (transformByte s pos.toNat x).2.setWidth 64).toNat =
        csum.toNat + (transformByte s pos.toNat x).2.toNat := by
      rw [BitVec.toNat_add, BitVec.toNat_setWidth_of_le (by omega), Nat.mod_eq_of_lt (by omega)]
    have := transformBytes_csum s xs (pos + 1) (csum + (transformByte s pos.toNat x).2.setWidth 64)
      (by omega) (by omega)
    simp only [transformBytes, checksumGain, this, hs, hp]
    omega

/-- The transform of a byte depends on the direction, the matrices and the key lengths only. -/
theorem transformByte_congr {s t : State}
    (h : t.dir = s.dir ∧ t.m1 = s.m1 ∧ t.m2 = s.m2 ∧ t.klen1 = s.klen1 ∧ t.klen2 = s.klen2) (p : Nat) (x : Byte) :
    transformByte t p x = transformByte s p x := by
  obtain ⟨h1, h2, h3, h4, h5⟩ := h
  simp only [transformByte, mixBytes, h1, h2, h3, h4, h5]

/-- The gain of `CSUM` as a sum over the indices of the chunk. -/
theorem checksumGain_eq_sum (s : State) : ∀ (xs : List Byte) (p : Nat),
    checksumGain s xs p = ((List.range xs.length).map fun o => (transformByte s (p + o) (xs.getD o 0)).2.toNat).sum
  | [], _ => rfl
  | x :: xs, p => by
    rw [checksumGain, checksumGain_eq_sum s xs (p + 1), List.length_cons, List.range_succ_eq_map]
    simp [List.map_map, Function.comp_def, Nat.add_assoc, Nat.add_comm 1]

end Sys2Proof.Machine
end

