-- ==== Sys2Proof/Laws/Step.lean ====
section
/-! SUPPORT. What one step can do, said once: the transitions of the machine, and the lemma that every step is one of
them. -/

namespace Sys2Proof.Machine

/-- The state a step works on: the host's move, if there is one, has been taken off the list. -/
def State.popHost (s : State) : State := { s with host := s.host.tail }

/-- Everything a step can do to the state `u`. -/
inductive Transition (u : State) : State → Prop where
  | idle (hb : u.busy = false) : Transition u u
  | build (hb : u.busy = true) (hp : u.phase = .keysAccepted) : Transition u (buildStep u)
  | stream (hb : u.busy = true) (hp : u.phase = .streaming) : Transition u (streamStep u)
  | answered (a : Answer) : Transition u (u.reply a)
  | fatalByCommand (c : Cause) (info : Word64) (hb : u.busy = false) (hp : u.phase ≠ .fatal)
      (hc : c ∈ [Cause.key1Empty, .key2Empty, .key1Short, .key2Short, .key1Full, .key2Full, .sizeIllegal,
        .chunkIllegal, .unknownOpcode, .reservedBits, .wrongPhase]) : Transition u ((raiseFatal c info u).reply .done)
  | sinit (hb : u.busy = false) : Transition u ((endSession u).reply .done)
  | push1 (b : Byte) (hb : u.busy = false) (hp : u.phase = .init) (hk : u.klen1.toNat < 255) :
      Transition u ({ u with m1 := u.m1.write (matrixCell 0 u.klen1.toNat) b, klen1 := u.klen1 + 1 }.reply .done)
  | push2 (b : Byte) (hb : u.busy = false) (hp : u.phase = .init) (hk : u.klen2.toNat < 255) :
      Transition u ({ u with m2 := u.m2.write (matrixCell 0 u.klen2.toNat) b, klen2 := u.klen2 + 1 }.reply .done)
  | accept (hb : u.busy = false) (hp : u.phase = .init)
      (hc : ChecksPass u) :
      Transition u ({ u with strength := strengthOf u.klen1 u.klen2, phase := .keysAccepted }.reply .done)
  | startBuild (hb : u.busy = false) (hp : u.phase = .keysAccepted) :
      Transition u ({ u with busy := true }.reply .done)
  | startPass (d : Bool) (hb : u.busy = false) (hp : u.phase = .matricesBuilt) :
      Transition u ((startPass d u).reply .done)
  | ack (hb : u.busy = false) : Transition u ({ u with evt := false }.reply .done)
  | writeCtrl (d : Word64) (hb : u.busy = false) :
      Transition u ({ u with ie := d.getLsbD 0, enforce := d.getLsbD 1 }.reply .done)
  | writeSize (d : Word64) (hb : u.busy = false) (hp : u.phase = .init) :
      Transition u ({ u with size := d }.reply .done)
  | writeChunk (d : Word64) (hb : u.busy = false) (hp : u.phase = .init) :
      Transition u ({ u with chunk := d }.reply .done)
  | rst : Transition u (hardReset u)
  | supply (data : List Byte) (hp : u.phase ≠ .streaming) :
      Transition u { u with store := Memory.writeRange [] 0 data, storeLen := data.length }

theorem Transition.of_command {i : Instr} {effect : State → State} {s t : State} (h : command i effect s = .next t)
    (hlegal : s.busy = false → (s.phase = .fatal → runsInFatal i = true) → legalIn i s.phase = true →
      Transition s ((effect s).reply .done)) : Transition s t := by
  rcases command_cases h with ⟨_, rfl⟩ | ⟨hb, hf, hl, rfl⟩ | ⟨hb, hf, _, rfl⟩
  · exact .answered _
  · exact hlegal hb hf hl
  · exact .fatalByCommand _ _ hb hf (by simp)

/-- Every command's meaning is one of the transitions. -/
theorem Transition.of_exec {i : Instr} {s t : State} (h : exec i s = .next t) : Transition s t := by
  cases i with
  | nop => exact .of_command (i := .nop) (effect := fun s => s) h fun _ _ _ => .answered _
  | sinit => exact .of_command (i := .sinit) h fun hb _ _ => .sinit hb
  | kpush1 b =>
    refine .of_command (i := .kpush1 b) h fun hb _ hl => ?_
    have hp : s.phase = .init := by simpa [legalIn] using hl
    rcases pushKey1_cases b s with ⟨_, e⟩ | ⟨hk, e⟩ <;> rw [e]
    · exact .fatalByCommand _ _ hb (by simp [hp]) (by simp)
    · exact .push1 b hb hp hk
  | kpush2 b =>
    refine .of_command (i := .kpush2 b) h fun hb _ hl => ?_
    have hp : s.phase = .init := by simpa [legalIn] using hl
    rcases pushKey2_cases b s with ⟨_, e⟩ | ⟨hk, e⟩ <;> rw [e]
    · exact .fatalByCommand _ _ hb (by simp [hp]) (by simp)
    · exact .push2 b hb hp hk
  | kaccept =>
    refine .of_command (i := .kaccept) h fun hb _ hl => ?_
    have hp : s.phase = .init := by simpa [legalIn] using hl
    rcases acceptKeys_cases s with ⟨c, hc, e⟩ | ⟨hc, e⟩ <;> rw [e]
    · refine .fatalByCommand _ _ hb (by simp [hp]) ?_
      simp only [List.mem_cons, List.not_mem_nil, or_false] at hc ⊢
      tauto
    · exact .accept hb hp hc
  | build =>
    exact .of_command (i := .build) (effect := fun s => { s with busy := true }) h fun hb _ hl =>
      .startBuild hb (by simpa [legalIn] using hl)
  | enc => exact .of_command (i := .enc) h fun hb _ hl => .startPass false hb (by simpa [legalIn] using hl)
  | dec => exact .of_command (i := .dec) h fun hb _ hl => .startPass true hb (by simpa [legalIn] using hl)
  | ack =>
    exact .of_command (i := .ack) (effect := fun s => { s with evt := false }) h fun hb _ _ => .ack hb

/-- Every write on the port is one of the transitions. -/
theorem Transition.of_hostWrite {n : Byte} {d : Word64} {s t : State} (h : hostWrite n d s = .next t) :
    Transition s t := by
  unfold hostWrite at h
  split at h
  · injection h with h; exact h ▸ .answered _
  · next r _ =>
    split at h
    · injection h with h; exact h ▸ .answered _
    · next hb =>
      have hb : s.busy = false := by simpa using hb
      cases r with
      | cmd =>
        simp only [writeReg, writeCmd] at h
        split at h
        · exact .of_exec h
        · rcases rejectWord_cases h with ⟨_, rfl⟩ | ⟨hb, hf, rfl⟩
          · exact .answered _
          · exact .fatalByCommand _ _ hb hf (by next e _ => cases e <;> simp [illegalCause])
      | ctrl => simp only [writeReg] at h; injection h with h; exact h ▸ .writeCtrl d hb
      | size =>
        simp only [writeReg] at h
        split at h
        · injection h with h; exact h ▸ .writeSize d hb ‹_›
        · injection h with h; exact h ▸ .answered _
      | chunk =>
        simp only [writeReg] at h
        split at h
        · injection h with h; exact h ▸ .writeChunk d hb ‹_›
        · injection h with h; exact h ▸ .answered _
      | _ => simp only [writeReg] at h; injection h with h; exact h ▸ .answered _

/-- The core agent's turn is one of the transitions. -/
theorem Transition.of_coreStep {s t : State} (h : coreStep s = .next t) : Transition s t := by
  unfold coreStep at h
  split at h
  · next hb =>
    split at h
    · injection h with h; exact h ▸ .build hb ‹_›
    · injection h with h; exact h ▸ .stream hb ‹_›
    all_goals cases h
  · next hb => injection h with h; exact h ▸ .idle (by simpa using hb)

/-- Every move of the host is one of the transitions. -/
theorem Transition.of_hostMove {m : HostMove} {s t : State} (h : hostMove m s = .next t) : Transition s t := by
  cases m with
  | read n => simp only [hostMove] at h; injection h with h; exact h ▸ .answered _
  | write n d => exact .of_hostWrite h
  | rst => simp only [hostMove] at h; injection h with h; exact h ▸ .rst
  | supply data =>
    simp only [hostMove, supplyStore] at h
    split at h
    · cases h
    · injection h with h; exact h ▸ .supply data ‹_›
  | yield => exact .of_coreStep h

/-- What a step can do. -/
theorem step_transition {s t : State} (h : step s = .next t) : Transition s.popHost t := by
  unfold step agentsStep at h
  split at h
  · next hm =>
    have : s.popHost = s := by unfold State.popHost; rw [hm, List.tail_nil, ← hm]
    rw [this]; exact .of_coreStep h
  · next m ms hm =>
    have : s.popHost = { s with host := ms } := by unfold State.popHost; rw [hm, List.tail_cons]
    rw [this]; exact .of_hostMove h

/-- The transform does not depend on the host's coming moves. -/
theorem transformBytes_host (s : State) (ms : List HostMove) : ∀ (xs : List Byte) (p c : Word64),
    transformBytes { s with host := ms } xs p c = transformBytes s xs p c
  | [], _, _ => rfl
  | x :: xs, p, c => by simp only [transformBytes, transformBytes_host s ms xs]; rfl

/-- A streaming step does not depend on the host's coming moves, and keeps them. -/
theorem streamStep_host (s : State) (ms : List HostMove) :
    streamStep { s with host := ms } = { streamStep s with host := ms } := by
  have hserves : ∀ a n, storeServes a n { s with host := ms } = storeServes a n s := fun _ _ => rfl
  unfold streamStep
  dsimp only
  split
  · unfold fetchStep
    dsimp only
    split
    · rfl
    · rw [hserves, show chunkLength { s with host := ms } = chunkLength s from rfl]
      split <;> rfl
  · unfold xformStep
    dsimp only
    rw [transformBytes_host]
  · unfold wbackStep
    dsimp only
    rw [hserves]
    split <;> rfl

/-- The core's turn does not depend on the host's coming moves, and keeps them. -/
theorem coreStep_host {s t : State} (ms : List HostMove) (h : coreStep { s with host := [] } = .next t) :
    coreStep { s with host := ms } = .next { t with host := ms } := by
  unfold coreStep at h ⊢
  dsimp only at h ⊢
  split at h
  · next hb =>
    rw [if_pos hb]
    split at h
    · next hp => cases h; rw [hp]; rfl
    · cases h; rw [streamStep_host s ms, streamStep_host s []]
    all_goals cases h
  · next hb => cases h; rw [if_neg hb]

/-- With no host move left a busy core takes its own step. -/
theorem step_core {s : State} (hh : s.host = []) : step s = coreStep s := by
  unfold step agentsStep; rw [hh]

/-- With no host move left a pass takes its streaming step. -/
theorem step_stream {s : State} (hh : s.host = []) (hb : s.busy = true) (hp : s.phase = .streaming) :
    step s = .next (streamStep s) := by
  rw [step_core hh]; unfold coreStep; simp [hb, hp]

/-- A run is its first step and the run from there. -/
theorem run_next (M : Host.Core) {s t : M.State} (h : M.step s = .next t) (k : Nat) : M.run (k + 1) s = M.run k t := by
  show (match M.step s with | .next s' => M.run k s' | .fault r => .fault r | .refused r => .refused r) = _
  rw [h]

/-- A run that begins with `j` steps to `t` goes on as the run from `t`. -/
theorem run_add (M : Host.Core) : ∀ (j k : Nat) (s t : M.State), M.run j s = .next t → M.run (j + k) s = M.run k t
  | 0, k, s, t, h => by injection h with h; rw [h, Nat.zero_add]
  | j + 1, k, s, t, h => by
    rw [show j + 1 + k = (j + k) + 1 by omega]
    cases hs : M.step s with
    | next s' => rw [run_next M hs] at h ⊢; exact run_add M j k s' t h
    | fault r =>
      change (match M.step s with | .next s' => M.run j s' | .fault r => .fault r | .refused r => .refused r) = _ at h
      rw [hs] at h; cases h
    | refused r =>
      change (match M.step s with | .next s' => M.run j s' | .fault r => .fault r | .refused r => .refused r) = _ at h
      rw [hs] at h; cases h

end Sys2Proof.Machine
end

