-- ==== Sys2Proof/Tests/Slice0.lean ====
section
/-! SUPPORT. Small tests of single operations and steps, and the witnesses of the statements' hypotheses. Every expected
value is written out from the spec's encodings, rules or vectors (95_test_vectors.md), named in the comments. -/

namespace Sys2Proof.Tests

open Sys2Proof.Machine

/-! ### The states used -/

/-- The outcome is a next state with a property. -/
def answersNext (p : State → Bool) : Result → Bool
  | .next t => p t
  | .fault _ => false
  | .refused _ => false

/-- Key1 of Set D. -/
def keyD1 : List Byte := [97, 98, 99, 100]

/-- Key2 of Set D. -/
def keyD2 : List Byte := [119, 120, 121, 122]

/-- Phase INIT with the keys, the size and the chunk size of the Set D session. -/
def atInit : State :=
  { State.reset with
    size := 10, chunk := 4, klen1 := 4, klen2 := 4
    m1 := Memory.writeRange [] 0 keyD1, m2 := Memory.writeRange [] 0 keyD2
    store := Memory.writeRange [] 0 [0x00, 0x01, 0xFF, 0x80, 0x7F, 0x10, 0x20, 0x30, 0x40, 0x50], storeLen := 10 }

/-- Phase KEYS_ACCEPTED of the same session. -/
def atAccepted : State := { atInit with phase := .keysAccepted, strength := 48 }

/-- The build step's turn. -/
def atBuild : State := { atAccepted with busy := true }

/-- Phase MATRICES_BUILT, the matrices as 95_test_vectors.md section 4 tabulates them. -/
def atBuilt : State :=
  { atAccepted with
    phase := .matricesBuilt, evt := true
    m1 := storeRows [] 0 [keyD1, [101, 25, 237], [129, 96]]
    m2 := storeRows [] 0 [keyD2, [67, 129, 195], [39, 138]] }

/-- The first fetch step of a pass, over a store that serves every access of it. -/
def atPass (dir : Bool) : State :=
  { atBuilt with dir := dir, phase := .streaming, busy := true, tape := List.replicate 6 .ok }

/-- The first chunk has been fetched. -/
def atXform : State :=
  { atPass false with sstep := .xform, clen := 4, buf := Memory.writeRange [] 0 [0x00, 0x01, 0xFF, 0x80] }

/-- The first chunk of a DEC pass over the ciphertext has been fetched. -/
def atXformDec : State :=
  { atPass true with sstep := .xform, clen := 4, buf := Memory.writeRange [] 0 [0xF4, 0x1D, 0xA5, 0x2C] }

/-- The first chunk has been transformed. -/
def atWback : State :=
  { atXform with sstep := .wback, pos := 4, csum := 482, buf := Memory.writeRange [] 0 [0xF4, 0x1D, 0xA5, 0x2C] }

/-- The finalizing fetch step. -/
def atEnd : State := { atPass false with pos := 10, csum := 1107, cbase := 8, clen := 2 }

/-- Phase FATAL after a build written in INIT (60_exceptions.md R236 item 3). -/
def atFatal : State := { State.reset with phase := .fatal, err := 0x0305, errinfo := 5, evt := true }

/-! ### Decoding: words written out from 30_encoding.md R90 to R93 -/

/-- opcode 0x00, `imm8` 0 -/
theorem test_decode_nop : decode 0b0000000000000000 = .ok .nop := by decide
/-- opcode 0x01 -/
theorem test_decode_sinit : decode 0b0000000000000001 = .ok .sinit := by decide
/-- opcode 0x02, `imm8` 0x61 in bits 15:8 (R99) -/
theorem test_decode_kpush1 : decode 0b0110000100000010 = .ok (.kpush1 0x61) := by decide
/-- opcode 0x03, `imm8` 0xFF (95_test_vectors.md section 8) -/
theorem test_decode_kpush2 : decode 0b1111111100000011 = .ok (.kpush2 0xFF) := by decide
/-- opcode 0x04 -/
theorem test_decode_kaccept : decode 0b0000000000000100 = .ok .kaccept := by decide
/-- opcode 0x05 -/
theorem test_decode_build : decode 0b0000000000000101 = .ok .build := by decide
/-- opcode 0x06 -/
theorem test_decode_enc : decode 0b0000000000000110 = .ok .enc := by decide
/-- opcode 0x07 -/
theorem test_decode_dec : decode 0b0000000000000111 = .ok .dec := by decide
/-- opcode 0x08 -/
theorem test_decode_ack : decode 0b0000000000001000 = .ok .ack := by decide

/-- 95_test_vectors.md section 8: the reserved bits take priority over the unknown opcode. -/
theorem test_decode_reserved_first : decode 0x8000000000000009 = .error .reservedBits := by decide
/-- Section 8: the unknown opcode takes priority over `imm8`. -/
theorem test_decode_opcode_before_imm : decode 0x109 = .error .unknownOpcode := by decide
/-- The words of spec/opcode_table.json as the host numbers them. -/
theorem test_decode_table_word : decodeTableWord 16 0x6102 = some (.kpush1 0x61) := by decide
/-- Bits above `nbits` are taken as 0. -/
theorem test_decode_table_word_cut : decodeTableWord 16 0x10005 = some .build := by decide

/-! ### WellFormed: an ill-formed word for each check -/

/-- Reserved bit 16 is set. -/
theorem test_wf_reserved : reservedBitsClear 0x16102 = false ∧ wordWellFormed 0x16102 = false := by decide
/-- Opcode 0x09. -/
theorem test_wf_opcode : opcodeKnown 0x0009 = false ∧ wordWellFormed 0x0009 = false := by decide
/-- BUILD with `imm8` 1. -/
theorem test_wf_imm : immAllowed 0x0105 = false ∧ wordWellFormed 0x0105 = false := by decide
/-- KPUSH1 with an immediate passes every check. -/
theorem test_wf_kpush1 : wordWellFormed 0x6102 = true ∧ wordInMap 0x6102 = true := by decide

/-! ### The pure functions: 95_test_vectors.md sections 2 to 5 and 7 -/

theorem test_inv_table : invTable 58 = 221 ∧ invTable 69 = 35 ∧ invTable 127 = 255 := by decide
theorem test_odd_table : oddTable 58 = 117 ∧ oddTable 127 = 255 := by decide
theorem test_advisor_examples : advisor 7 = some 3 ∧ advisor 100 = some 6 ∧ advisor 130 = some 6 ∧
    advisor 131 = some 7 ∧ advisor 0 = none := by decide
/-- The size where a double-precision loop gives 36 (93_implementation_defined.md U3), and the largest legal size. -/
theorem test_advisor_exact : advisor 245674292397912 = some 35 ∧ advisor 72057594037927935 = some 41 := by decide
/-- Set A, matrix M1. -/
theorem test_build_matrix_a : buildMatrix [1, 2, 3] [4, 5] = [[1, 2, 3], [100, 49], [206]] := by decide
/-- Set E, matrix M1: the accumulator is not reduced between steps. -/
theorem test_build_matrix_e : buildMatrix [16, 32, 48, 64, 80] [255, 255, 255] =
    [[16, 32, 48, 64, 80], [96, 160, 128, 96], [144, 160, 128], [192, 192]] := by decide
/-- Set B: the only generated row is empty. -/
theorem test_build_matrix_one : buildMatrix [7] [9] = [[7], []] := by decide
/-- Set D at `t = 0`, and at `t = 2^56 - 2`: the absolute position is used. -/
theorem test_mix : mix 0 atBuilt.m1 4 = 198 ∧ mix 72057594037927934 atBuilt.m2 4 = 60 := by decide
theorem test_rk_encrypt : rkEncrypt 1 123 249 = 29 ∧ rkEncrypt 0 0 255 = 1 ∧ rkEncrypt 77 255 1 = 181 := by decide
theorem test_rk_decrypt : rkDecrypt 29 123 249 = 1 ∧ rkDecrypt 1 0 255 = 0 ∧ rkDecrypt 0 255 0 = 255 := by decide
theorem test_mac : macOf 1107 = (175, 151, 143, 103) ∧ macOf 4294967296 = (8, 110, 15, 123) := by decide
theorem test_format_mac : formatMac (95, 77, 71, 41) = "095-077-071-041" := by decide

/-! ### The commands, one step each -/

/-- In FATAL too, NOP is answered OK (46_session_control.md R201). -/
theorem test_nop_in_fatal : answersNext (fun t => t == { atFatal with answers := [.done] }) (exec .nop atFatal) = true := by
  decide

/-- SINIT in FATAL: the size back to 0, `CHUNK` to 1 048 576, `ERR` to 0 (R202). -/
theorem test_sinit_leaves_fatal : answersNext
    (fun t => statusWord t == 0 && t.err == 0 && t.chunk == 1048576 && ctrlWord t == 3)
    (exec .sinit { atFatal with ie := true, size := 9, chunk := 4 }) = true := by decide

/-- `STATUS = 0x14` becomes `0x04` (R203). -/
theorem test_ack : answersNext (fun t => statusWord t == 0x04)
    (exec .ack { State.reset with phase := .finalized, evt := true }) = true := by decide

/-- A zero byte is a legal key byte; the 255th byte is stored. -/
theorem test_kpush1_last : answersNext (fun t => t.klen1 == 255 && t.m1.read 254 == 0xFF)
    (exec (.kpush1 0xFF) { State.reset with klen1 := 254 }) = true := by decide

/-- The 256th byte: `ERR = 0x0501`, `STATUS = 0x17`. -/
theorem test_kpush1_full : answersNext (fun t => t.err == 0x0501 && statusWord t == 0x17 && t.klen1 == 255)
    (exec (.kpush1 0x01) { State.reset with klen1 := 255 }) = true := by decide

theorem test_kpush2_first : answersNext (fun t => t.klen2 == 1 && t.m2.read 0 == 0x77 && t.klen1 == 0)
    (exec (.kpush2 0x77) State.reset) = true := by decide

theorem test_kpush2_full : answersNext (fun t => t.err == 0x0601) (exec (.kpush2 0x01) { State.reset with klen2 := 255 }) = true := by
  decide

/-- 95_test_vectors.md section 3: accepted with `STRENGTH = 48`. -/
theorem test_kaccept : answersNext (fun t => statusWord t == 0x01 && t.strength == 48) (exec .kaccept atInit) = true := by
  decide

/-- Section 3: `KLEN2 = 3` with `Advisor(10) = 4` is InvalidKey sub 4. -/
theorem test_kaccept_short : answersNext (fun t => statusWord t == 0x17 && t.err == 0x0401 && t.strength == 0)
    (exec .kaccept { atInit with klen2 := 3 }) = true := by decide

/-- `STATUS = 0x09` (42_keystream_builder.md R149). -/
theorem test_build : answersNext (fun t => statusWord t == 0x09) (exec .build atAccepted) = true := by decide

/-- BUILD in INIT: `ERR = 0x0305`, `ERRINFO = 5` (60_exceptions.md R236 item 3). -/
theorem test_build_in_init : answersNext (fun t => t == { atFatal with answers := [.done] }) (exec .build State.reset) = true := by
  decide

/-- `STATUS = 0x0B` when `EVT` was 0 (44_stream_processor.md R171). -/
theorem test_enc : answersNext (fun t => statusWord t == 0x0B) (exec .enc { atBuilt with evt := false }) = true := by decide

/-- `STATUS = 0x2B` when `EVT` was 0 (R172). -/
theorem test_dec : answersNext (fun t => statusWord t == 0x2B) (exec .dec { atBuilt with evt := false }) = true := by decide

/-- ENC in FINALIZED: `ERRINFO = 6`, the MAC stays (95_test_vectors.md F10). -/
theorem test_enc_in_finalized : answersNext (fun t => t.err == 0x0305 && t.errinfo == 6 && t.mac0 == 175)
    (exec .enc { atEnd with phase := .finalized, busy := false, mac0 := 175 }) = true := by decide

/-! ### The core's own steps: the Set D session of 95_test_vectors.md section 6 -/

theorem test_step_build : answersNext (fun t => statusWord t == 0x12 && t.m1 == atBuilt.m1 && t.m2 == atBuilt.m2)
    (step atBuild) = true := by decide

theorem test_step_fetch : answersNext (fun t => t.buf == atXform.buf && t.clen == 4 && t.sstep == .xform && t.pos == 0)
    (step (atPass false)) = true := by decide

theorem test_step_xform : answersNext (fun t => t.buf == atWback.buf && t.pos == 4 && t.csum == 482) (step atXform) = true := by
  decide

/-- DEC adds the input bytes to `CSUM` (R180). -/
theorem test_step_xform_dec : answersNext (fun t => t.buf.readRange 0 4 == [0x00, 0x01, 0xFF, 0x80] && t.csum == 482)
    (step atXformDec) = true := by decide

theorem test_step_wback : answersNext (fun t => t.store.readRange 0 6 == [0xF4, 0x1D, 0xA5, 0x2C, 0x7F, 0x10])
    (step atWback) = true := by decide

theorem test_step_finalize : answersNext (fun t => statusWord t == 0x14 && t.mac0 == 175 && t.mac3 == 103)
    (step atEnd) = true := by decide

/-- F1 of section 10: the first read fails. -/
theorem test_step_fetch_fails : answersNext (fun t => t.err == 0x0102 && statusWord t == 0x17 && t.buf == [])
    (step { atPass false with tape := [.fail] }) = true := by decide

/-- F4: `SIZE = 12` over a store of 10 bytes. -/
theorem test_step_fetch_past_store : answersNext (fun t => t.err == 0x0102 && t.errinfo == 8 && t.pos == 8)
    (step { atPass false with size := 12, pos := 8, csum := 1083 }) = true := by decide

/-- F5: a DEC pass whose write fails keeps `DIR`, `POS` and `CSUM`; `STATUS = 0x37`. -/
theorem test_step_wback_fails : answersNext
    (fun t => t.err == 0x0202 && statusWord t == 0x37 && t.pos == 4 && t.csum == 482)
    (step { atWback with dir := true, evt := true, tape := [.fail] }) = true := by decide

/-! ### The host port: 95_test_vectors.md section 9 -/

theorem test_port_reset_reads : hostRead 2 State.reset = .value 2 ∧ hostRead 4 State.reset = .value 1048576 ∧
    hostRead 0 State.reset = .value 0 := by decide
theorem test_port_minklen : hostRead 7 atInit = .value 4 ∧ hostRead 7 { atInit with size := 0xFFFFFFFFFFFFFFFF } = .value 0 := by
  decide
theorem test_port_unmapped : hostRead 17 State.reset = .err ∧ hostRead 255 State.reset = .err := by decide
theorem test_port_busy : hostRead 1 atBuild = .value 0x09 ∧ hostRead 9 atBuild = .err := by decide
theorem test_port_ctrl_reserved : answersNext (fun t => ctrlWord t == 3) (hostWrite 2 0xFFFFFFFFFFFFFFFF State.reset) = true := by
  decide
/-- While busy a SINIT is answered ERR and changes nothing. -/
theorem test_port_busy_sinit : answersNext (fun t => t == { atBuild with answers := [.err] }) (hostWrite 0 1 atBuild) = true := by
  decide
/-- F9: an unknown opcode in MATRICES_BUILT. -/
theorem test_port_illegal_word : answersNext (fun t => t.err == 0x0105 && t.errinfo == 0x42) (hostWrite 0 0x42 atBuilt) = true := by
  decide
/-- The host supplies no store during a pass (20_memory.md R77). -/
theorem test_supply_in_pass : hostMove (.supply [1]) (atPass false) = .refused .storeInUse := by rfl
/-- `irq` needs both bits (60_exceptions.md R231). -/
theorem test_irq : irq { atFatal with ie := true } = true ∧ irq atFatal = false := by decide
/-- The table's word placed for the next step is the command that runs. -/
theorem test_fetch_word : answersNext (fun t => t.klen1 == 1 && t.m1.read 0 == 0x61)
    (step (State.reset.withFetchWord 16 0x6102)) = true := by decide

/-- The moves of `session_enc` for one-byte keys, with one poll in each wait (30_encoding.md R98). -/
theorem test_script_session : (scriptMoves (scriptSession .enc [7] [9] 4 2 1 1)).take 7 =
    [.write 0 1, .write 3 4, .write 4 2, .write 0 0x702, .write 0 0x903, .write 0 4, .write 0 5] := by decide

/-! ### Witnesses: the hypotheses of each statement can be met, clause by clause -/

theorem witness_EncodeOfDecode : ∃ d i, decode d = .ok i := ⟨0xFF03, .kpush2 0xFF, by decide⟩

theorem witness_DecodeFollowsOpcodeMap : ∃ r ∈ opcodeMap,
    (0x6102 : Word64).extractLsb' 16 48 = 0 ∧ (0x6102 : Word64).extractLsb' 0 16 &&& r.mask = r.pattern :=
  ⟨⟨"KPUSH1", 0x0002, 0x00FF⟩, by decide, by decide⟩

/-- Boundary words of each clause: bit 16 and bit 63 alone, opcodes 8, 9 and 255, `imm8` 1 and 255. -/
theorem witness_IllegalWordsAndTheirCauses :
    (0x10000 : Word64).extractLsb' 16 48 ≠ 0 ∧ (0x8000000000000000 : Word64).extractLsb' 16 48 ≠ 0 ∧
    ((0x0009 : Word64).extractLsb' 16 48 = 0 ∧ 9 ≤ ((0x0009 : Word64).extractLsb' 0 8).toNat) ∧
    ((0x00FF : Word64).extractLsb' 16 48 = 0 ∧ 9 ≤ ((0x00FF : Word64).extractLsb' 0 8).toNat) ∧
    ((0x0108 : Word64).extractLsb' 16 48 = 0 ∧ ((0x0108 : Word64).extractLsb' 0 8).toNat = 8 ∧
      (0x0108 : Word64).extractLsb' 8 8 ≠ 0) ∧
    ((0xFF02 : Word64).extractLsb' 16 48 = 0 ∧ ((0xFF02 : Word64).extractLsb' 0 8).toNat = 2) ∧
    ((0x0008 : Word64).extractLsb' 16 48 = 0 ∧ ((0x0008 : Word64).extractLsb' 0 8).toNat = 8 ∧
      (0x0008 : Word64).extractLsb' 8 8 = 0) := by decide

theorem witness_StepRunsDecodedCommand : ∃ (s : State) (d : Word64) (ms : List HostMove) (i : Instr),
    s.host = .write 0 d :: ms ∧ decode d = .ok i :=
  ⟨{ State.reset with host := [.write 0 0x6102] }, 0x6102, [], .kpush1 0x61, rfl, by decide⟩

/-- A `yield` before a further move, over a core whose step is the build step. -/
theorem witness_StepRunsDecodedCommand_yield : ∃ (s t : State) (ms : List HostMove), s.host = .yield :: ms ∧
    ms = [.read 1] ∧ step { s with host := [] } = .next t ∧ t.phase = .matricesBuilt :=
  ⟨{ atBuild with host := [.yield, .read 1] }, _, _, rfl, rfl, rfl, by decide⟩
/-- A silent host and a core in each of its turns: build, stream, none. -/
theorem witness_StepRunsDecodedCommand_turn :
    (∀ s ∈ [atBuild, atXform], s.host = [] ∧ s.busy = true ∧ (s.phase = .keysAccepted ∨ s.phase = .streaming)) ∧
    atInit.host = [] ∧ atInit.busy = false := by decide
/-- A `supply` outside a pass, of no bytes and of two, and one during a pass. -/
theorem witness_StepRunsDecodedCommand_supply :
    (∀ data ∈ [([] : List Byte), [1, 0]], ∃ s : State, s.host = .supply data :: [] ∧ s.phase ≠ .streaming) ∧
    ∃ s : State, s.host = .supply [1] :: [] ∧ s.phase = .streaming :=
  ⟨fun data _ => ⟨{ atInit with host := [.supply data] }, rfl, nofun⟩, { atXform with host := [.supply [1]] }, rfl, rfl⟩
/-- A state in FATAL, a busy one, and an idle one. -/
theorem witness_StepRejectsIllegalWord : decode 9 = .error .unknownOpcode ∧
    (∀ s ∈ [{ atFatal with host := [.write 0 9] }, { atBuild with host := [.write 0 9] }],
      s.host = .write 0 9 :: [] ∧ (s.busy = true ∨ s.phase = .fatal)) ∧
    (∀ s ∈ [{ atInit with host := [.write 0 9] }], s.host = .write 0 9 :: [] ∧ s.busy = false ∧ s.phase ≠ .fatal) := by
  decide

theorem witness_NopChangesNothing : ∃ s : State, s.busy = false := ⟨atFatal, rfl⟩
theorem witness_SinitRestoresAllButCtrl : atFatal.busy = false ∧ atBuild.busy = true := by decide
theorem witness_AckClearsEvent : ∃ s : State, s.busy = false ∧ s.evt = true := ⟨atFatal, rfl, rfl⟩

theorem witness_Kpush1AppendsByte : ∀ s ∈ [State.reset, { State.reset with klen1 := 254 }],
    s.busy = false ∧ s.phase = .init ∧ s.klen1.toNat < 255 := by decide
theorem witness_Kpush2AppendsByte : ∀ s ∈ [State.reset, { State.reset with klen2 := 254 }],
    s.busy = false ∧ s.phase = .init ∧ s.klen2.toNat < 255 := by decide
theorem witness_FullKeyIsInvalidKey : ∃ s : State,
    s.busy = false ∧ s.phase = .init ∧ s.klen1.toNat = 255 ∧ s.klen2.toNat = 255 :=
  ⟨{ State.reset with klen1 := 255, klen2 := 255 }, by decide⟩

/-- Both ends of the sizes and of the chunk sizes, with keys at the advisor's minimum. -/
theorem witness_KacceptAcceptsLegalSession : ∀ s ∈ [{ atInit with size := 1, chunk := 1, klen1 := 2, klen2 := 2 },
    { atInit with size := 72057594037927935, chunk := 1048576, klen1 := 41, klen2 := 41 }],
    s.busy = false ∧ s.phase = .init ∧ 1 ≤ s.size.toNat ∧ s.size.toNat ≤ 2 ^ 56 - 1 ∧ 1 ≤ s.chunk.toNat ∧
      s.chunk.toNat ≤ 1048576 ∧ s.klen1 ≠ 0 ∧ s.klen2 ≠ 0 ∧ s.enforce = true ∧
      belowMinimum s.klen1.toNat s.size.toNat = false ∧ belowMinimum s.klen2.toNat s.size.toNat = false := by decide
theorem witness_KacceptAcceptsLegalSession_minimum :
    ∃ k, advisor 72057594037927935 = some k ∧ k ≤ 41 := ⟨41, by decide⟩

/-- States for the first two branches: sizes 0 and 2^56, chunk sizes 0 and 1 048 577. -/
theorem witness_KacceptReportsFirstFailure :
    (∀ s ∈ [{ atInit with size := 0 }, { atInit with size := 0x100000000000000 }],
      s.busy = false ∧ s.phase = .init ∧ ¬ (1 ≤ s.size.toNat ∧ s.size.toNat ≤ 2 ^ 56 - 1)) ∧
    (∀ s ∈ [{ atInit with chunk := 0 }, { atInit with chunk := 1048577 }],
      s.busy = false ∧ s.phase = .init ∧ (1 ≤ s.size.toNat ∧ s.size.toNat ≤ 2 ^ 56 - 1) ∧
      ¬ (1 ≤ s.chunk.toNat ∧ s.chunk.toNat ≤ 1048576)) := by decide
/-- States for the branches of an empty key. -/
theorem witness_KacceptReportsFirstFailure_empty :
    ∀ s ∈ [{ atInit with klen1 := 0 }, { atInit with klen2 := 0 }], s.busy = false ∧ s.phase = .init ∧
      (1 ≤ s.size.toNat ∧ s.size.toNat ≤ 2 ^ 56 - 1) ∧ (1 ≤ s.chunk.toNat ∧ s.chunk.toNat ≤ 1048576) ∧
      (s.klen1 = 0 ∨ s.klen1 ≠ 0 ∧ s.klen2 = 0) := by decide
/-- States for the branches of a short key: `Advisor(10) = 4`, a key of 3 bytes is short, one of 4 is not. -/
theorem witness_KacceptReportsFirstFailure_short : advisor 10 = some 4 ∧
    ∀ s ∈ [{ atInit with klen1 := 3 }, { atInit with klen2 := 3 }], s.busy = false ∧ s.phase = .init ∧
      s.size.toNat = 10 ∧ (1 ≤ s.chunk.toNat ∧ s.chunk.toNat ≤ 1048576) ∧ s.klen1 ≠ 0 ∧ s.klen2 ≠ 0 ∧
      s.enforce = true ∧ (s.klen1.toNat < 4 ∨ ¬ s.klen1.toNat < 4 ∧ s.klen2.toNat < 4) := by decide

theorem witness_BuildSetsBusy : atAccepted.busy = false ∧ atAccepted.phase = .keysAccepted := by decide
theorem witness_EncAndDecStartPass : atBuilt.busy = false ∧ atBuilt.phase = .matricesBuilt := by decide
/-- A state and a command for each of the three alternatives. -/
theorem witness_WrongPhaseIsIllegalCommand :
    (atAccepted.busy = false ∧ atAccepted.phase ≠ .fatal ∧ atAccepted.phase ≠ .init) ∧
    (atInit.busy = false ∧ atInit.phase ≠ .fatal ∧ atInit.phase ≠ .keysAccepted ∧ atInit.phase ≠ .matricesBuilt) := by
  decide
theorem witness_FatalPhaseDropsCommands : atFatal.busy = false ∧ atFatal.phase = .fatal ∧
    ∀ i ∈ [Instr.kpush1 0, .kpush2 0, .kaccept, .build, .enc, .dec], i ≠ .nop ∧ i ≠ .sinit ∧ i ≠ .ack := by decide
theorem witness_CommandsFrame : ∃ (i : Instr) (s t : State), exec i s = .next t ∧ t.phase ≠ .fatal :=
  ⟨.build, atAccepted, _, rfl, by decide⟩

/-- Idle states at the boundaries of the legal sizes, each with a read pending. -/
theorem witness_HostReadAnswersRegisters : ∀ v ∈ [(0 : Word64), 1, 72057594037927935, 0x100000000000000],
    ∃ s : State, s.busy = false ∧ s.host = .read 7 :: [] ∧ s.size = v :=
  fun v _ => ⟨{ State.reset with size := v, host := [.read 7] }, rfl, rfl, rfl⟩
/-- For each of the three registers an idle state in INIT and one outside it. -/
theorem witness_HostWritesOfParameters : ∀ n ∈ [(2 : Byte), 3, 4],
    ∃ s u : State, (s.busy = false ∧ s.host = .write n 9 :: [] ∧ s.phase = .init) ∧
      u.busy = false ∧ u.host = .write n 9 :: [] ∧ u.phase ≠ .init :=
  fun n _ => ⟨{ atInit with host := [.write n 9] }, { atAccepted with host := [.write n 9] }, ⟨rfl, rfl, rfl⟩, rfl, rfl, nofun⟩
/-- Reads of 17 and 255, and writes of 1, 5, 16, 17 and 255, each pending in a busy state. -/
theorem witness_ForbiddenAccessesAnswerErr :
    (∀ n ∈ [(17 : Byte), 255], ∃ s : State, s.host = .read n :: [] ∧ 17 ≤ n.toNat) ∧
    (∀ n ∈ [(1 : Byte), 5, 16, 17, 255], ∃ s : State, s.host = .write n 0 :: [] ∧ (n.toNat = 1 ∨ 5 ≤ n.toNat)) :=
  ⟨fun n hn => ⟨{ atBuild with host := [.read n] }, rfl, by revert n; decide⟩,
    fun n hn => ⟨{ atBuild with host := [.write n 0] }, rfl, by revert n; decide⟩⟩
theorem witness_BusyPortRefusesEverything : (9 : Byte) ≠ 1 ∧
    ∀ m ∈ [HostMove.write 0 1, .read 9, .read 1, .rst], ∃ s ∈ [{ atBuild with host := [m] }],
      s.busy = true ∧ s.host = m :: [] := by decide
theorem witness_HostMovesRevealNoSecret : ∃ t, atInit.busy = false ∧
    step { atInit with host := [.write 0 0x6102] } = .next t ∧ t.klen1 = 5 := ⟨_, rfl, rfl, by decide⟩
theorem witness_RstRestoresResetState : ∃ (s : State) (ms : List HostMove), s.host = .rst :: ms ∧ s.busy = true :=
  ⟨{ atPass true with host := [.rst] }, [], rfl, rfl⟩

theorem witness_MatrixShape : (buildMatrix [1, 2, 3] [4, 5])[2]? = some [206] := by decide
/-- Row 1 of Set A has column 1, row 2 only column 0. -/
theorem witness_RowElements : (buildMatrix [1, 2, 3] [4, 5])[0]? = some [1, 2, 3] ∧
    (buildMatrix [1, 2, 3] [4, 5])[1]? = some [100, 49] ∧ 1 < [1, 2, 3].length - (0 + 1) := by decide
theorem witness_AccumulatorBound : (List.replicate 255 (255 : Byte)).length ≤ 255 := le_of_eq List.length_replicate
/-- A cell just past row 1, at column `L - 1`, is outside the generated rows. -/
theorem witness_BuildStepBuildsBothMatrices_outside :
    ∀ i j, 1 ≤ i → i ≤ ceilHalf 4 → j < 4 - i → matrixCell 1 3 ≠ matrixCell i j := by
  intro i j _ hi hj; simp only [ceilHalf, matrixCell] at *; omega
theorem witness_BuildStepBuildsBothMatrices : atBuild.host = [] ∧ atBuild.busy = true ∧ atBuild.phase = .keysAccepted ∧
    (buildMatrix (readRow atBuild.m1 0 4) (readRow atBuild.m2 0 4))[1]? = some [101, 25, 237] := by decide
/-- Two matrix memories that differ in row `stop` only; `L = 1` is the boundary. -/
theorem witness_MixIgnoresLastRow : ∃ m m' : Memory, m ≠ m' ∧
    ∀ i j, i < (1 + 1) / 2 → j < 1 - i → m.read (matrixCell i j) = m'.read (matrixCell i j) :=
  ⟨[(0, 7)], [(0, 7), (256, 1)], by decide, by
    intro i j hi hj
    obtain rfl : i = 0 := by omega
    obtain rfl : j = 0 := by omega
    rfl⟩
theorem witness_AdvisorIsSmallestLength : (1 : Nat) ≤ 1 ∧ 1 ≤ 2 ^ 56 - 1 ∧ 1 ≤ 72057594037927935 ∧
    72057594037927935 ≤ 2 ^ 56 - 1 := by decide
theorem witness_AdvisorRunsGrowthLoop : (1 : Nat) ≤ 10 ∧ 10 ≤ 2 ^ 56 - 1 := by decide
theorem witness_SingleBitChangesEveryMac : (7 : Nat) ≤ 7 := by decide

theorem witness_FetchReadsChunk : (atPass false).host = [] ∧ (atPass false).busy = true ∧
    (atPass false).phase = .streaming ∧ (atPass false).sstep = .fetch ∧
    (atPass false).pos.toNat < (atPass false).size.toNat ∧ nextReply (atPass false) = .ok ∧
    (atPass false).pos.toNat + min (atPass false).chunk.toNat
      ((atPass false).size.toNat - (atPass false).pos.toNat) ≤ (atPass false).storeLen := by decide
/-- One state for each cause: the store answers fail, or it is too short. -/
theorem witness_FetchFailureIsFatal :
    ∀ s ∈ [{ atPass false with tape := [.fail] }, { atPass false with storeLen := 3 }], s.host = [] ∧ s.busy = true ∧
      s.phase = .streaming ∧ s.sstep = .fetch ∧ s.pos ≠ s.size ∧
      (nextReply s = .fail ∨ s.storeLen < s.pos.toNat + min s.chunk.toNat (s.size.toNat - s.pos.toNat)) := by decide
theorem witness_TransformStepTransformsChunk : ∀ s ∈ [atXform, atXformDec], s.host = [] ∧ s.busy = true ∧
    s.phase = .streaming ∧ s.sstep = .xform ∧ s.pos.toNat + s.clen.toNat < 2 ^ 64 ∧
    s.csum.toNat + 255 * s.clen.toNat < 2 ^ 64 := by decide
theorem witness_WritebackStoresChunk : atWback.host = [] ∧ atWback.busy = true ∧ atWback.phase = .streaming ∧
    atWback.sstep = .wback ∧ nextReply atWback = .ok ∧ atWback.cbase.toNat + atWback.clen.toNat ≤ atWback.storeLen := by
  decide
theorem witness_WritebackFailureIsFatal :
    ∀ s ∈ [{ atWback with tape := [.fail] }, { atWback with storeLen := 3 }], s.host = [] ∧ s.busy = true ∧
      s.phase = .streaming ∧ s.sstep = .wback ∧
      (nextReply s = .fail ∨ s.storeLen < s.cbase.toNat + s.clen.toNat) := by decide
theorem witness_FinalizeReportsMac : atEnd.host = [] ∧ atEnd.busy = true ∧ atEnd.phase = .streaming ∧
    atEnd.sstep = .fetch ∧ atEnd.pos = atEnd.size := by decide

/-- A step that changes the phase by the build step, and one by a Fatal entry. -/
theorem witness_PhaseTransitions : (∃ t, step atBuild = .next t ∧ t.phase = .matricesBuilt) ∧
    ∃ t, step { atBuilt with host := [.write 0 0x42] } = .next t ∧ t.phase = .fatal := ⟨⟨_, rfl, by decide⟩, _, rfl, by decide⟩
theorem witness_ParametersFixedAfterAcceptance : ∃ t, step { atAccepted with host := [.write 3 99] } = .next t ∧
    t.phase ≠ .init := ⟨_, rfl, by decide⟩
/-- ENC in FINALIZED ends in FATAL, ACK in FATAL stays there; neither is SINIT or `rst`. -/
theorem witness_ParametersFixedAfterAcceptance_results :
    (∃ s t, step s = .next t ∧ s.phase = .finalized ∧ nextCommand s = some .enc ∧
      (nextCommand s ≠ some .sinit ∧ s.host.head? ≠ some .rst) ∧ t.phase ≠ .init) ∧
    ∃ s t, step s = .next t ∧ s.phase = .fatal ∧ (nextCommand s ≠ some .sinit ∧ s.host.head? ≠ some .rst) ∧ t.phase ≠ .init :=
  ⟨⟨{ atEnd with phase := .finalized, busy := false, host := [.write 0 6] }, _, rfl, by decide⟩,
    { atFatal with host := [.write 0 8] }, _, rfl, by decide⟩
theorem witness_FirstFatalCauseKept : ∃ t, step { atFatal with host := [.write 0 9] } = .next t ∧ t.phase = .fatal :=
  ⟨_, rfl, by decide⟩
/-- One step in which `EVT` falls and one in which `BUSY` falls. -/
theorem witness_EventFlagRules :
    (∃ t, step { atFatal with host := [.write 0 8] } = .next t ∧ atFatal.evt = true ∧ t.evt = false) ∧
    ∃ t, step atBuild = .next t ∧ atBuild.busy = true ∧ t.busy = false := ⟨⟨_, rfl, by decide⟩, _, rfl, by decide⟩
theorem witness_IrqIsEnabledEvent : ∃ t, step { atFatal with ie := true, host := [.write 2 0] } = .next t ∧
    irq { atFatal with ie := true } = true ∧ irq t = false := ⟨_, rfl, by decide⟩
theorem witness_CtrlChangesOnlyByHostOrReset : ∃ t, step { atInit with host := [.write 2 1] } = .next t ∧ t.ie = true :=
  ⟨_, rfl, by decide⟩

/-- The invariant holds of a state in the middle of a pass, from which a step is taken. -/
theorem witness_InvariantKeptByEveryStep : Inv atXform ∧ ∃ t, step atXform = .next t :=
  ⟨⟨by decide, by decide, by decide, by decide, by decide, by decide, by decide, by decide,
    by unfold chunkHeld; decide, by unfold chunkHeld; decide, by decide, by decide, by decide, by decide, by decide, by decide⟩,
    _, rfl⟩

theorem witness_RunsNeverFault : ∃ s : State, Inv s ∧ s.busy = true := ⟨atXform, witness_InvariantKeptByEveryStep.1, rfl⟩

/-- A pass that is ready in either direction. -/
theorem witness_PassTransformsWholeStore (d : Bool) : PassReady (atPass d) :=
  ⟨rfl, rfl, rfl, rfl, rfl, rfl, by revert d; decide, by revert d; decide, by revert d; decide, by revert d; decide⟩

/-- A pass over a store of one byte. -/
def onePass (d : Bool) (b : Byte) : State :=
  { atPass d with size := 1, store := Memory.writeRange [] 0 [b], storeLen := 1 }

/-- `SIZE = 1`, the byte 0x00, Set D keys: the store becomes 0xF4 (95_test_vectors.md section 6, corner cases). -/
theorem test_one_byte_pass : ∃ t : State, Sys2Proof.core.run 4 (onePass false 0x00) = .next t ∧ t.store.read 0 = 0xF4 ∧
    t.csum = 244 ∧ t.mac0 = 11 := ⟨_, rfl, by decide⟩

theorem witness_DecryptionPassUndoesEncryptionPass : ∃ s t u v : State, PassReady s ∧ s.dir = false ∧
    Sys2Proof.core.run (3 * chunkCount s + 1) s = .next t ∧ PassReady u ∧ u.dir = true ∧ u.m1 = s.m1 ∧ u.m2 = s.m2 ∧
    u.klen1 = s.klen1 ∧ u.klen2 = s.klen2 ∧ u.size = s.size ∧ (∀ a, a < s.size.toNat → u.store.read a = t.store.read a) ∧
    Sys2Proof.core.run (3 * chunkCount u + 1) u = .next v :=
  ⟨onePass false 0x00, _, onePass true 0xF4, _,
    ⟨rfl, rfl, rfl, rfl, rfl, rfl, by decide, by decide, by decide, by decide⟩, rfl, rfl,
    ⟨rfl, rfl, rfl, rfl, rfl, rfl, by decide, by decide, by decide, by decide⟩, rfl, rfl, rfl, rfl, rfl, rfl,
    by decide, rfl⟩

end Sys2Proof.Tests
end

section
/-! What a host transaction on the port can do: every command is its effect behind one gate, a register number names one
register, and a write answers a next state always. -/

namespace Sys2Proof.Machine

/-- The effect each command has behind the gate of the commands (30_encoding.md R95). -/
def commandEffect : Instr → State → State
  | .nop, s => s
  | .sinit, s => endSession s
  | .kpush1 b, s => pushKey1 b s
  | .kpush2 b, s => pushKey2 b s
  | .kaccept, s => acceptKeys s
  | .build, s => { s with busy := true }
  | .enc, s => startPass false s
  | .dec, s => startPass true s
  | .ack, s => { s with evt := false }

theorem exec_eq_command (i : Instr) (s : State) : exec i s = command i (commandEffect i) s := by
  cases i <;> rfl

/-- A register number that names a register is that register's number (10_state.md R21). -/
theorem eq_number_of_ofNumber {n : Byte} {r : Reg} (h : Reg.ofNumber n = some r) : n = r.number := by
  unfold Reg.ofNumber at h
  split at h <;> cases h <;> exact BitVec.eq_of_toNat_eq ‹_›

/-- The rejection of an illegal word answers a next state always. -/
theorem rejectWord_completes (e : IllegalWord) (d : Word64) (s : State) : ∃ t, rejectWord e d s = .next t := by
  unfold rejectWord
  split
  · exact ⟨_, rfl⟩
  · split <;> exact ⟨_, rfl⟩

theorem exec_completes (i : Instr) (s : State) : ∃ t, exec i s = .next t :=
  exec_eq_command i s ▸ command_completes i _ s

theorem writeCmd_completes (d : Word64) (s : State) : ∃ t, writeCmd d s = .next t := by
  unfold writeCmd
  split
  · exact exec_completes _ s
  · exact rejectWord_completes _ d s

theorem writeReg_completes (r : Reg) (d : Word64) (s : State) : ∃ t, writeReg r d s = .next t := by
  cases r with
  | cmd => exact writeCmd_completes d s
  | size | chunk => simp only [writeReg]; split <;> exact ⟨_, rfl⟩
  | _ => exact ⟨_, rfl⟩

/-- A host write answers a next state always. -/
theorem hostWrite_completes (n : Byte) (d : Word64) (s : State) : ∃ t, hostWrite n d s = .next t := by
  unfold hostWrite
  split
  · exact ⟨_, rfl⟩
  · split
    · exact ⟨_, rfl⟩
    · exact writeReg_completes _ d s

end Sys2Proof.Machine
end

section
/-! The invariant of reachable states (10_state.md R45): every transition keeps it, so every step does, and no run from
a state that meets it stops with a fault. -/

namespace Sys2Proof.Machine

/-! ### The memories and the reset values -/

/-- The canonical form of the four memories, the last four items of `Inv`. -/
structure MemoriesWf (s : State) : Prop where
  m1Wf : Memory.wf s.m1 = true
  m2Wf : Memory.wf s.m2 = true
  bufWf : Memory.wf s.buf = true
  storeWf : Memory.wf s.store = true

theorem Inv.memoriesWf {s : State} (h : Inv s) : MemoriesWf s := { h with }

/-- The invariant does not speak of the host's coming moves. -/
theorem Inv.popHost {s : State} (h : Inv s) : Inv s.popHost := { h with }

/-- The invariant does not speak of the port's answers. -/
theorem Inv.reply {s : State} (h : Inv s) (a : Answer) : Inv (s.reply a) := { h with }

/-- What SINIT and `rst` leave meets the invariant, whatever stood in the registers. -/
theorem Inv.endSession {s : State} (hstore : Memory.wf s.store = true) : Inv (endSession s) where
  busyPhase := nofun
  streamingBusy := nofun
  params := nofun
  fatalIff := iff_of_false nofun (not_not.2 rfl)
  errTable := rfl
  notStarted _ := ⟨rfl, rfl⟩
  macBefore _ := ⟨rfl, rfl, rfl, rfl⟩
  atFetch := nofun
  atXform := nofun
  atWback := nofun
  csumBound := by simp
  finalized := nofun
  m1Wf := rfl
  m2Wf := rfl
  bufWf := rfl
  storeWf := hstore

theorem Inv.hardReset {s : State} (hstore : Memory.wf s.store = true) : Inv (hardReset s) :=
  { Inv.endSession hstore with }

/-- In every field of which the invariant speaks the reset state is what SINIT leaves over an empty store. -/
theorem inv_reset : Inv State.reset :=
  { Inv.endSession (s := State.reset) rfl with }

/-! ### The Fatal entry -/

theorem errListed_err {c : Cause} (hc : c ≠ .arithmeticInvariant) : errListed c.err = true := by
  cases c with
  | arithmeticInvariant => exact absurd rfl hc
  | _ => decide

theorem Cause.code_ne_zero (c : Cause) : c.code ≠ 0 := by cases c <;> decide

theorem errCode_raiseFatal (c : Cause) (info : Word64) (s : State) : errCode (raiseFatal c info s) = c.code := by
  show c.err.extractLsb' 0 8 = c.code
  cases c <;> decide

/-- A Fatal entry meets the invariant from every state with canonical memories. -/
theorem MemoriesWf.inv_raiseFatal {s : State} (h : MemoriesWf s) {c : Cause} (hc : c ≠ .arithmeticInvariant)
    (info : Word64) : Inv (raiseFatal c info s) where
  busyPhase := nofun
  streamingBusy := nofun
  params := nofun
  fatalIff := iff_of_true rfl (errCode_raiseFatal c info s ▸ c.code_ne_zero)
  errTable := errListed_err hc
  notStarted := nofun
  macBefore := by simp [Phase.beforePass]
  atFetch := nofun
  atXform := nofun
  atWback := nofun
  csumBound := by simp
  finalized := nofun
  m1Wf := h.m1Wf
  m2Wf := h.m2Wf
  bufWf := h.bufWf
  storeWf := h.storeWf

/-- Outside FATAL the error code is 0 (R45 item 3). -/
theorem Inv.errCode_eq_zero {s : State} (h : Inv s) (hp : s.phase ≠ .fatal) : errCode s = 0 :=
  not_not.1 (mt h.fatalIff.2 hp)

/-! ### The phase changes before a pass -/

/-- In INIT no clause speaks of the parameters and the keys, which the host is setting. -/
theorem Inv.setParams {s : State} (h : Inv s) (hp : s.phase = .init) (size chunk : Word64) (klen1 klen2 : Byte)
    {m1 m2 : Memory} (hm1 : Memory.wf m1 = true) (hm2 : Memory.wf m2 = true) :
    Inv { s with size := size, chunk := chunk, klen1 := klen1, klen2 := klen2, m1 := m1, m2 := m2 } :=
  { h with
    params := by simp [hp, Phase.accepted]
    atFetch := by simp [hp]
    atXform := by simp [hp]
    atWback := by simp [hp]
    finalized := by simp [hp]
    m1Wf := hm1
    m2Wf := hm2 }

/-- KACCEPT, its checks passed (41_keys_advisor.md R130 steps 7 and 8). -/
theorem Inv.accept {s : State} (h : Inv s) (hp : s.phase = .init) (hc : ChecksPass s) :
    Inv { s with strength := strengthOf s.klen1 s.klen2, phase := .keysAccepted } := by
  obtain ⟨hsize, hchunk, hk1, hk2, -⟩ := hc
  have hpre : s.phase.beforePass = true := by rw [hp]; rfl
  exact { h with
    busyPhase := fun _ => .inl rfl
    streamingBusy := nofun
    params := fun _ => ⟨by bv_omega, by bv_omega, hsize, hchunk⟩
    fatalIff := iff_of_false nofun (not_not.2 (h.errCode_eq_zero (by simp [hp])))
    notStarted := fun _ => h.notStarted hpre
    macBefore := fun _ => h.macBefore (.inl hpre)
    atFetch := nofun
    atXform := nofun
    atWback := nofun
    csumBound := by simp
    finalized := nofun }

/-- BUILD (42_keystream_builder.md R149). -/
theorem Inv.startBuild {s : State} (h : Inv s) (hp : s.phase = .keysAccepted) : Inv { s with busy := true } :=
  { h with
    busyPhase := fun _ => .inl hp
    streamingBusy := fun _ => rfl }

/-- The build step (R150): the rows it stores keep the canonical form of the matrices. -/
theorem Inv.buildStep {s : State} (h : Inv s) (hp : s.phase = .keysAccepted) : Inv (buildStep s) :=
  have hpre : s.phase.beforePass = true := by rw [hp]; rfl
  { h with
    busyPhase := nofun
    streamingBusy := nofun
    params := fun _ => h.params (by rw [hp]; rfl)
    fatalIff := iff_of_false nofun (not_not.2 (h.errCode_eq_zero (by simp [hp])))
    notStarted := fun _ => h.notStarted hpre
    macBefore := fun _ => h.macBefore (.inl hpre)
    atFetch := nofun
    atXform := nofun
    atWback := nofun
    csumBound := by simp
    finalized := nofun
    m1Wf := Memory.wf_storeRows _ _ _ h.m1Wf
    m2Wf := Memory.wf_storeRows _ _ _ h.m2Wf }

/-- ENC and DEC (44_stream_processor.md R171, R172): the first fetch is at `POS = 0`, below a legal `SIZE`. -/
theorem Inv.startPass {s : State} (h : Inv s) (hp : s.phase = .matricesBuilt) (d : Bool) : Inv (startPass d s) := by
  have hparams := h.params (by rw [hp]; rfl)
  obtain ⟨-, -, hsize, -⟩ := id hparams
  have hpos : 1 ≤ s.size.toNat := ((sizeLegal_iff _).1 hsize).1
  exact { h with
    busyPhase := fun _ => .inr rfl
    streamingBusy := fun _ => rfl
    params := fun _ => hparams
    fatalIff := iff_of_false nofun (not_not.2 (h.errCode_eq_zero (by simp [hp])))
    notStarted := nofun
    macBefore := fun _ => h.macBefore (.inl (by rw [hp]; rfl))
    atFetch := fun _ _ => .inr ⟨hpos, Nat.zero_mod _⟩
    atXform := nofun
    atWback := nofun
    csumBound := fun _ => Nat.zero_le _
    finalized := nofun }

/-! ### The streaming steps -/

theorem Inv.size_le_of_streaming {s : State} (h : Inv s) (hp : s.phase = .streaming) :
    s.size.toNat ≤ 72057594037927935 := by
  obtain ⟨-, -, hsize, -⟩ := h.params (by rw [hp]; rfl)
  exact ((sizeLegal_iff _).1 hsize).2

/-- `CLEN` holds the length of the chunk without loss. -/
theorem toNat_ofNat_chunkLength (s : State) : (BitVec.ofNat 64 (chunkLength s)).toNat = chunkLength s := by
  have hlt : chunkLength s < 2 ^ 64 := lt_of_le_of_lt (min_le_left _ _) s.chunk.isLt
  rw [BitVec.toNat_ofNat, Nat.mod_eq_of_lt hlt]

/-- The finalize step (45_checksum_mac.md R191): each residue fits its byte. -/
theorem Inv.finalizeStep {s : State} (h : Inv s) (hp : s.phase = .streaming) (he : s.pos = s.size) :
    Inv (finalizeStep s) :=
  { h with
    busyPhase := nofun
    streamingBusy := nofun
    params := fun _ => h.params (by rw [hp]; rfl)
    fatalIff := iff_of_false nofun (not_not.2 (h.errCode_eq_zero (by simp [hp])))
    notStarted := nofun
    macBefore := by simp [Phase.beforePass]
    atFetch := nofun
    atXform := nofun
    atWback := nofun
    csumBound := fun _ => h.csumBound (.inl hp)
    finalized := fun _ => by
      simp only [finalizeStep_pos, finalizeStep_size, finalizeStep_csum, finalizeStep_mac0, finalizeStep_mac1,
        finalizeStep_mac2, finalizeStep_mac3, BitVec.toNat_ofNat]
      exact ⟨he, by omega, by omega, by omega, by omega⟩ }

/-- A served fetch (44_stream_processor.md R173): the chunk recorded starts at `POS`. -/
theorem Inv.fetchChunk {s : State} (h : Inv s) (hp : s.phase = .streaming) (hs : s.sstep = .fetch)
    (hne : s.pos ≠ s.size) (bytes : List Byte) :
    Inv { s.asked with buf := s.buf.writeRange 0 bytes, sstep := .xform } := by
  obtain ⟨hlt, hmul⟩ := (h.atFetch hp hs).resolve_left fun e => hne (BitVec.eq_of_toNat_eq e)
  exact { h with
    atFetch := nofun
    atXform := fun _ _ => ⟨⟨hlt, hmul, toNat_ofNat_chunkLength s⟩, rfl⟩
    atWback := nofun
    bufWf := Memory.wf_writeRange _ _ _ h.bufWf }

/-- The fetch step finalizes the pass, fetches a chunk, or enters FATAL. -/
theorem Inv.fetchStep {s : State} (h : Inv s) (hp : s.phase = .streaming) (hs : s.sstep = .fetch) :
    Inv (fetchStep s) := by
  rcases fetchStep_cases s with ⟨he, e⟩ | ⟨hne, -, e⟩ | ⟨-, -, e⟩ <;> rw [e]
  · exact h.finalizeStep hp he
  · exact h.fetchChunk hp hs hne _
  · exact MemoriesWf.inv_raiseFatal (s := s.asked) (c := .readFailed) { h.memoriesWf with } nofun _

/-- In the transform step `POS` gains `CLEN` and `CSUM` at most 255 a byte, and neither wraps (R174, 10_state.md R33). -/
theorem Inv.xformStep_exact {s : State} (h : Inv s) (hp : s.phase = .streaming) (hs : s.sstep = .xform) :
    (xformStep s).pos.toNat = s.cbase.toNat + s.clen.toNat ∧
      (xformStep s).csum.toNat ≤ 255 * (xformStep s).pos.toNat := by
  obtain ⟨⟨hbase, -, hlen⟩, hpos⟩ := h.atXform hp hs
  have hsize := h.size_le_of_streaming hp
  have hcsum := h.csumBound (.inl hp)
  have hbytes := Memory.readRange_length s.buf 0 s.clen.toNat
  rw [hpos] at hcsum
  have hpos' := transformBytes_pos s (s.buf.readRange 0 s.clen.toNat) s.cbase s.csum (by omega)
  have hcsum' := transformBytes_csum s (s.buf.readRange 0 s.clen.toNat) s.cbase s.csum (by omega) (by omega)
  have hgain := checksumGain_le s (s.buf.readRange 0 s.clen.toNat) s.cbase.toNat
  rw [xformStep_eq, hpos]
  dsimp only
  omega

/-- The transform step (R174). -/
theorem Inv.xformStep {s : State} (h : Inv s) (hp : s.phase = .streaming) (hs : s.sstep = .xform) :
    Inv (xformStep s) :=
  have hexact := h.xformStep_exact hp hs
  have hheld : chunkHeld s := (h.atXform hp hs).1
  { h with
    notStarted := by simp [xformStep_eq, hp, Phase.beforePass]
    atFetch := nofun
    atXform := nofun
    atWback := fun _ _ => ⟨hheld, hexact.1⟩
    csumBound := fun _ => hexact.2
    finalized := by simp [xformStep_eq, hp]
    bufWf := Memory.wf_writeRange _ _ _ h.bufWf }

/-- After a write-back `POS` is at the end of the data or at the start of the next chunk. -/
theorem Inv.next_chunk {s : State} (h : Inv s) (hp : s.phase = .streaming) (hs : s.sstep = .wback) :
    s.pos.toNat = s.size.toNat ∨ s.pos.toNat < s.size.toNat ∧ s.pos.toNat % s.chunk.toNat = 0 := by
  obtain ⟨⟨hbase, hmul, hlen⟩, hpos⟩ := h.atWback hp hs
  rcases le_total (s.size.toNat - s.cbase.toNat) s.chunk.toNat with hlast | hfull
  · rw [min_eq_right hlast] at hlen
    exact .inl (by omega)
  · rw [min_eq_left hfull] at hlen
    have hnext : s.pos.toNat % s.chunk.toNat = 0 := by rw [hpos, hlen, Nat.add_mod_right, hmul]
    omega

/-- The write-back step (R177). -/
theorem Inv.wbackStep {s : State} (h : Inv s) (hp : s.phase = .streaming) (hs : s.sstep = .wback) :
    Inv (wbackStep s) := by
  rcases wbackStep_cases s with ⟨-, e⟩ | ⟨-, e⟩ <;> rw [e]
  · exact { h with
      atFetch := fun _ _ => h.next_chunk hp hs
      atXform := nofun
      atWback := nofun
      storeWf := Memory.wf_writeRange _ _ _ h.storeWf }
  · refine MemoriesWf.inv_raiseFatal (c := .writeFailed) ?_ nofun _
    exact { h.memoriesWf with storeWf := Memory.wf_writeRange _ _ _ h.storeWf }

theorem Inv.streamStep {s : State} (h : Inv s) (hp : s.phase = .streaming) : Inv (streamStep s) := by
  unfold Machine.streamStep
  split
  · next hs => exact h.fetchStep hp hs
  · next hs => exact h.xformStep hp hs
  · next hs => exact h.wbackStep hp hs

/-! ### Every step and every run -/

/-- Every transition keeps the invariant. -/
theorem Inv.transition {u t : State} (h : Inv u) (ht : Transition u t) : Inv t := by
  cases ht with
  | idle hb => exact h
  | build hb hp => exact h.buildStep hp
  | stream hb hp => exact h.streamStep hp
  | answered a => exact h.reply a
  | fatalByCommand c info hb hp hc =>
    exact (h.memoriesWf.inv_raiseFatal (by rintro rfl; simp at hc) info).reply _
  | sinit hb => exact (Inv.endSession h.storeWf).reply _
  | push1 b hb hp hk =>
    exact (h.setParams hp u.size u.chunk _ u.klen2 (Memory.wf_write _ _ _ h.m1Wf) h.m2Wf).reply _
  | push2 b hb hp hk =>
    exact (h.setParams hp u.size u.chunk u.klen1 _ h.m1Wf (Memory.wf_write _ _ _ h.m2Wf)).reply _
  | accept hb hp hc => exact (h.accept hp hc).reply _
  | startBuild hb hp => exact (h.startBuild hp).reply _
  | startPass d hb hp => exact (h.startPass hp d).reply _
  | ack hb => exact { h with }
  | writeCtrl d hb => exact { h with }
  | writeSize d hb hp => exact (h.setParams hp d u.chunk u.klen1 u.klen2 h.m1Wf h.m2Wf).reply _
  | writeChunk d hb hp => exact (h.setParams hp u.size d u.klen1 u.klen2 h.m1Wf h.m2Wf).reply _
  | rst => exact Inv.hardReset h.storeWf
  | supply data hp => exact { h with storeWf := Memory.wf_writeRange [] 0 data rfl }

theorem Inv.step_next {s t : State} (h : Inv s) (hstep : step s = .next t) : Inv t :=
  h.popHost.transition (step_transition hstep)

/-- Settles O57: a step is a transition of the state whose host move has been taken off, and each transition keeps the
invariant. -/
theorem invariantKeptByEveryStep : Obligations.InvariantKeptByEveryStep :=
  fun _ _ h hstep => h.step_next hstep

/-- Settles O56: the reset values are those SINIT leaves. -/
theorem invariantAtReset : Obligations.InvariantAtReset := inv_reset

/-! ### No fault -/

/-- Under the invariant a busy core has an enabled step (10_state.md R27, R45 item 1). -/
theorem Inv.coreStep_completes {s : State} (h : Inv s) : ∃ t, coreStep s = .next t := by
  unfold coreStep
  split
  · next hb => rcases h.busyPhase hb with hp | hp <;> rw [hp] <;> exact ⟨_, rfl⟩
  · exact ⟨_, rfl⟩

/-- Of the host's moves only `yield` could fault, which gives the core its turn. -/
theorem Inv.hostMove_ne_fault {s : State} (h : Inv s) (m : HostMove) (f : Fault) : hostMove m s ≠ .fault f := by
  cases m with
  | read n => nofun
  | write n d => obtain ⟨t, e⟩ := hostWrite_completes n d s; simp [hostMove, e]
  | rst => nofun
  | supply data => simp only [hostMove, supplyStore]; split <;> nofun
  | yield => obtain ⟨t, e⟩ := h.coreStep_completes; simp [hostMove, e]

theorem Inv.step_ne_fault {s : State} (h : Inv s) (f : Fault) : step s ≠ .fault f := by
  unfold step agentsStep
  split
  · obtain ⟨t, e⟩ := h.coreStep_completes
    simp [e]
  · next m ms _ => exact Inv.hostMove_ne_fault (s := { s with host := ms }) { h with } m f

theorem Inv.run_ne_fault : ∀ (k : Nat) {s : State}, Inv s → ∀ f : Fault, Sys2Proof.core.run k s ≠ .fault f
  | 0, _, _, _ => nofun
  | k + 1, s, h, f => by
    cases hs : step s with
    | next t => rw [run_next core hs]; exact Inv.run_ne_fault k (h.step_next hs) f
    | fault r => exact absurd hs (h.step_ne_fault r)
    | refused r =>
      have hrun : core.run (k + 1) s = .refused r := by
        simp only [Host.Core.run, show core.step s = .refused r from hs]
      rw [hrun]; nofun

/-- Settles O58, by induction on the number of steps: a step keeps the invariant and does not fault. -/
theorem runsNeverFault : Obligations.RunsNeverFault :=
  fun _ h k f => h.run_ne_fault k f

end Sys2Proof.Machine
end

section
/-! Every step with the host's move that made it, and what the routine steps keep: those that carry out neither SINIT,
ACK, `rst` nor a write to `CTRL`. -/

namespace Sys2Proof.Machine

/-! ### The step and its cause -/

/-- Everything a step can do from `s`, with the move of the host that did it where a rule names one. Beside `Transition`,
which says what becomes of the state alone, this keeps the command and the write that were carried out. -/
inductive StepEvent (s : State) : State → Prop where
  | idle (hb : s.busy = false) : StepEvent s s.popHost
  | build (hb : s.busy = true) (hp : s.phase = .keysAccepted) : StepEvent s (buildStep s.popHost)
  | stream (hb : s.busy = true) (hp : s.phase = .streaming) : StepEvent s (streamStep s.popHost)
  | answered (a : Answer) : StepEvent s (s.popHost.reply a)
  | command (i : Instr) (hc : nextCommand s = some i) (hb : s.busy = false) (hl : legalIn i s.phase = true) :
      StepEvent s ((commandEffect i s.popHost).reply .done)
  | rejected (c : Cause) (info : Word64) (hb : s.busy = false) (hp : s.phase ≠ .fatal)
      (hc : c ∈ [Cause.unknownOpcode, .reservedBits, .wrongPhase]) :
      StepEvent s ((raiseFatal c info s.popHost).reply .done)
  | writeCtrl (d : Word64) (ms : List HostMove) (hm : s.host = .write 2 d :: ms) (hb : s.busy = false) :
      StepEvent s ({ s.popHost with ie := d.getLsbD 0, enforce := d.getLsbD 1 }.reply .done)
  | writeSize (d : Word64) (hb : s.busy = false) (hp : s.phase = .init) :
      StepEvent s ({ s.popHost with size := d }.reply .done)
  | writeChunk (d : Word64) (hb : s.busy = false) (hp : s.phase = .init) :
      StepEvent s ({ s.popHost with chunk := d }.reply .done)
  | rst (hm : s.host.head? = some .rst) : StepEvent s (hardReset s.popHost)
  | supply (data : List Byte) (hp : s.phase ≠ .streaming) :
      StepEvent s { s.popHost with store := Memory.writeRange [] 0 data, storeLen := data.length }

theorem popHost_of_nil {s : State} (hh : s.host = []) : s.popHost = s := by
  unfold State.popHost; rw [hh, List.tail_nil, ← hh]

/-- With a move of the host at hand the step carries it out. -/
theorem step_of_move {s : State} {m : HostMove} {ms : List HostMove} (hm : s.host = m :: ms) :
    step s = hostMove m s.popHost := by
  unfold step agentsStep State.popHost; rw [hm]; rfl

theorem nextCommand_of_write {s : State} {d : Word64} {ms : List HostMove} {i : Instr}
    (hm : s.host = .write 0 d :: ms) (hd : decode d = .ok i) : nextCommand s = some i := by
  simp [nextCommand, hm, hd]

theorem StepEvent.of_coreStep {s t : State} (h : coreStep s.popHost = .next t) : StepEvent s t := by
  unfold coreStep at h
  split at h
  · next hb =>
    split at h
    case h_1 hp => cases h; exact .build hb hp
    case h_2 hp => cases h; exact .stream hb hp
    all_goals cases h
  · next hb => cases h; exact .idle (Bool.eq_false_iff.2 hb)

theorem StepEvent.of_writeCmd {s t : State} {d : Word64} {ms : List HostMove} (hm : s.host = .write 0 d :: ms)
    (h : writeCmd d s.popHost = .next t) : StepEvent s t := by
  unfold writeCmd at h
  split at h
  · next i hd =>
    rw [exec_eq_command] at h
    rcases command_cases h with ⟨-, rfl⟩ | ⟨hb, -, hl, rfl⟩ | ⟨hb, hp, -, rfl⟩
    · exact .answered _
    · exact .command i (nextCommand_of_write hm hd) hb hl
    · exact .rejected _ _ hb hp (by simp)
  · next e hd =>
    rcases rejectWord_cases h with ⟨-, rfl⟩ | ⟨hb, hp, rfl⟩
    · exact .answered _
    · exact .rejected _ _ hb hp (by cases e <;> simp [illegalCause])

theorem StepEvent.of_hostWrite {s t : State} {n : Byte} {d : Word64} {ms : List HostMove}
    (hm : s.host = .write n d :: ms) (h : hostWrite n d s.popHost = .next t) : StepEvent s t := by
  unfold hostWrite at h
  split at h
  · cases h; exact .answered _
  · next r hr =>
    cases eq_number_of_ofNumber hr
    split at h
    · cases h; exact .answered _
    · next hb =>
      have hb : s.busy = false := Bool.eq_false_iff.2 hb
      cases r with
      | cmd => exact .of_writeCmd hm h
      | ctrl => cases h; exact .writeCtrl d ms hm hb
      | size =>
        simp only [writeReg] at h
        split at h <;> cases h
        · exact .writeSize d hb ‹_›
        · exact .answered _
      | chunk =>
        simp only [writeReg] at h
        split at h <;> cases h
        · exact .writeChunk d hb ‹_›
        · exact .answered _
      | _ => cases h; exact .answered _

theorem StepEvent.of_hostMove {s t : State} {m : HostMove} {ms : List HostMove} (hm : s.host = m :: ms)
    (h : hostMove m s.popHost = .next t) : StepEvent s t := by
  cases m with
  | read n => cases h; exact .answered _
  | write n d => exact .of_hostWrite hm h
  | rst => cases h; exact .rst (by rw [hm]; rfl)
  | supply data =>
    simp only [hostMove, supplyStore] at h
    split at h <;> cases h
    exact .supply data ‹_›
  | yield => exact .of_coreStep h

/-- Every step is one of the events. -/
theorem step_event {s t : State} (h : step s = .next t) : StepEvent s t := by
  cases hm : s.host with
  | nil => rw [step_core hm] at h; exact .of_coreStep (by rwa [popHost_of_nil hm])
  | cons m ms => rw [step_of_move hm] at h; exact .of_hostMove hm h

/-! ### What the routine steps keep -/

/-- The parameters that KACCEPT fixes (10_state.md R25, R29). -/
def SameParams (s t : State) : Prop :=
  t.size = s.size ∧ t.chunk = s.chunk ∧ t.klen1 = s.klen1 ∧ t.klen2 = s.klen2

/-- The results that FINALIZED and FATAL leave to be read (45_checksum_mac.md R191, 60_exceptions.md R226). -/
def SameResults (s t : State) : Prop :=
  t.pos = s.pos ∧ t.csum = s.csum ∧ t.mac0 = s.mac0 ∧ t.mac1 = s.mac1 ∧ t.mac2 = s.mac2 ∧ t.mac3 = s.mac3 ∧
    t.dir = s.dir ∧ t.strength = s.strength

/-- The phases in which a session has ended. -/
def Phase.Ended (p : Phase) : Prop := p = .finalized ∨ p = .fatal

/-- What a step keeps that carries out neither SINIT, ACK, `rst` nor a write to `CTRL`. -/
structure RoutineStep (s t : State) : Prop where
  ctrl : t.ie = s.ie ∧ t.enforce = s.enforce
  evt : s.evt = true → t.evt = true
  busyFalls : s.busy = true → t.busy = false → t.evt = true
  params : s.phase ≠ .init → SameParams s t
  ended : s.phase.Ended → t.phase.Ended
  results : s.phase.Ended → SameResults s t

theorem sameParams_rfl {s : State} : SameParams s s := ⟨rfl, rfl, rfl, rfl⟩

theorem sameResults_rfl {s : State} : SameResults s s := ⟨rfl, rfl, rfl, rfl, rfl, rfl, rfl, rfl⟩

theorem RoutineStep.popHost (s : State) : RoutineStep s s.popHost where
  ctrl := ⟨rfl, rfl⟩
  evt := id
  busyFalls hb hb' := absurd (hb.symm.trans hb') nofun
  params _ := sameParams_rfl
  ended := id
  results _ := sameResults_rfl

theorem RoutineStep.reply {s t : State} (h : RoutineStep s t) (a : Answer) : RoutineStep s (t.reply a) := { h with }

/-- A Fatal entry sets `EVT` and keeps the parameters and the results (60_exceptions.md R226). -/
theorem RoutineStep.raiseFatal (c : Cause) (info : Word64) (s : State) : RoutineStep s (raiseFatal c info s) where
  ctrl := ⟨rfl, rfl⟩
  evt _ := rfl
  busyFalls _ _ := rfl
  params _ := sameParams_rfl
  ended _ := .inr rfl
  results _ := sameResults_rfl

/-- Before the session has ended nothing is asked of the results. -/
theorem RoutineStep.of_running {s t : State} (hp : ¬ s.phase.Ended) (ctrl : t.ie = s.ie ∧ t.enforce = s.enforce)
    (evt : s.evt = true → t.evt = true) (busyFalls : s.busy = true → t.busy = false → t.evt = true)
    (params : s.phase ≠ .init → SameParams s t) : RoutineStep s t where
  ctrl := ctrl
  evt := evt
  busyFalls := busyFalls
  params := params
  ended he := absurd he hp
  results he := absurd he hp

/-- An idle core in INIT may set the parameters as well. -/
theorem RoutineStep.of_init {s t : State} (hp : s.phase = .init) (hb : s.busy = false)
    (ctrl : t.ie = s.ie ∧ t.enforce = s.enforce) (evt : t.evt = s.evt) : RoutineStep s t :=
  .of_running (by simp [hp, Phase.Ended]) ctrl (evt ▸ id) (fun hb' => absurd (hb.symm.trans hb') nofun) (absurd hp)

theorem RoutineStep.buildStep {s : State} (hp : s.phase = .keysAccepted) : RoutineStep s (buildStep s) :=
  .of_running (by simp [hp, Phase.Ended]) ⟨rfl, rfl⟩ (fun _ => rfl) (fun _ _ => rfl) fun _ => sameParams_rfl

/-- A streaming step keeps the core busy, or ends the pass with `EVT` set. -/
theorem RoutineStep.streamStep {s : State} (hp : s.phase = .streaming) (hb : s.busy = true) :
    RoutineStep s (streamStep s) := by
  have hrun : ¬ s.phase.Ended := by simp [hp, Phase.Ended]
  have hbusy : ∀ t : State, t.busy = s.busy → s.busy = true → t.busy = false → t.evt = true :=
    fun t e _ hf => absurd (e.symm.trans hf) (by simp [hb])
  unfold Machine.streamStep
  split
  · rcases fetchStep_cases s with ⟨-, e⟩ | ⟨-, -, e⟩ | ⟨-, -, e⟩ <;> rw [e]
    · exact .of_running hrun ⟨rfl, rfl⟩ (fun _ => rfl) (fun _ _ => rfl) fun _ => sameParams_rfl
    · exact .of_running hrun ⟨rfl, rfl⟩ id (hbusy _ rfl) fun _ => sameParams_rfl
    · exact { RoutineStep.raiseFatal .readFailed s.pos s with }
  · exact .of_running hrun ⟨rfl, rfl⟩ id (hbusy _ rfl) fun _ => sameParams_rfl
  · rcases wbackStep_cases s with ⟨-, e⟩ | ⟨-, e⟩ <;> rw [e]
    · exact .of_running hrun ⟨rfl, rfl⟩ id (hbusy _ rfl) fun _ => sameParams_rfl
    · exact { RoutineStep.raiseFatal .writeFailed s.cbase s with }

/-- The commands other than SINIT and ACK are routine. -/
theorem RoutineStep.commandEffect {i : Instr} {s : State} (hsinit : i ≠ .sinit) (hack : i ≠ .ack)
    (hb : s.busy = false) (hl : legalIn i s.phase = true) : RoutineStep s (commandEffect i s) := by
  cases i with
  | nop => exact { RoutineStep.popHost s with }
  | sinit => exact absurd rfl hsinit
  | kpush1 b =>
    rcases pushKey1_cases b s with ⟨-, e⟩ | ⟨-, e⟩ <;> simp only [Machine.commandEffect, e]
    · exact .raiseFatal _ _ s
    · exact .of_init (by simpa [legalIn] using hl) hb ⟨rfl, rfl⟩ rfl
  | kpush2 b =>
    rcases pushKey2_cases b s with ⟨-, e⟩ | ⟨-, e⟩ <;> simp only [Machine.commandEffect, e]
    · exact .raiseFatal _ _ s
    · exact .of_init (by simpa [legalIn] using hl) hb ⟨rfl, rfl⟩ rfl
  | kaccept =>
    rcases acceptKeys_cases s with ⟨c, -, e⟩ | ⟨-, e⟩ <;> simp only [Machine.commandEffect, e]
    · exact .raiseFatal c _ s
    · exact .of_init (by simpa [legalIn] using hl) hb ⟨rfl, rfl⟩ rfl
  | build =>
    have hp : s.phase = .keysAccepted := by simpa [legalIn] using hl
    exact .of_running (by simp [hp, Phase.Ended]) ⟨rfl, rfl⟩ id nofun fun _ => sameParams_rfl
  | enc | dec =>
    have hp : s.phase = .matricesBuilt := by simpa [legalIn] using hl
    exact .of_running (by simp [hp, Phase.Ended]) ⟨rfl, rfl⟩ id nofun fun _ => sameParams_rfl
  | ack => exact absurd rfl hack

/-- A step carries out `rst`, SINIT, ACK or a write to `CTRL`, or it is routine. -/
theorem step_routine_or {s t : State} (h : step s = .next t) :
    (s.host.head? = some .rst ∧ t = hardReset s.popHost) ∨
    (nextCommand s = some .sinit ∧ s.busy = false ∧ t = (endSession s.popHost).reply .done) ∨
    (nextCommand s = some .ack ∧ s.busy = false ∧ t = { s.popHost with evt := false }.reply .done) ∨
    (∃ (d : Word64) (ms : List HostMove), s.host = .write 2 d :: ms ∧ s.busy = false ∧
      t = { s.popHost with ie := d.getLsbD 0, enforce := d.getLsbD 1 }.reply .done) ∨
    RoutineStep s t := by
  have routine {t : State} (hr : RoutineStep s.popHost t) : RoutineStep s t := { hr with }
  cases step_event h
  case rst hm => exact .inl ⟨hm, rfl⟩
  case writeCtrl d ms hm hb => exact .inr (.inr (.inr (.inl ⟨d, ms, hm, hb, rfl⟩)))
  case command i hc hb hl =>
    by_cases hsinit : i = .sinit
    · subst hsinit; exact .inr (.inl ⟨hc, hb, rfl⟩)
    by_cases hack : i = .ack
    · subst hack; exact .inr (.inr (.inl ⟨hc, hb, rfl⟩))
    have hr : RoutineStep s.popHost (Machine.commandEffect i s.popHost) := .commandEffect hsinit hack hb hl
    exact .inr (.inr (.inr (.inr (routine (hr.reply _)))))
  all_goals refine .inr (.inr (.inr (.inr (routine ?_))))
  case idle | answered | supply => exact { RoutineStep.popHost s with }
  case build hb hp => exact .buildStep hp
  case stream hb hp => exact .streamStep hp hb
  case rejected c info hb hp hc => exact (RoutineStep.raiseFatal c info _).reply _
  case writeSize d hb hp | writeChunk d hb hp => exact .of_init hp hb ⟨rfl, rfl⟩ rfl

/-! ### The rules of the flags and the parameters -/

/-- Settles O55: a routine step keeps `CTRL`, and so do SINIT and ACK. -/
theorem ctrlChangesOnlyByHostOrReset : Obligations.CtrlChangesOnlyByHostOrReset := by
  intro s t h
  rcases step_routine_or h with ⟨hm, rfl⟩ | ⟨-, -, rfl⟩ | ⟨-, -, rfl⟩ | ⟨d, ms, hm, -, rfl⟩ | hr
  · exact .inr (.inr ⟨hm, rfl, rfl⟩)
  · exact .inl ⟨rfl, rfl⟩
  · exact .inl ⟨rfl, rfl⟩
  · exact .inr (.inl ⟨d, ms, hm, rfl, rfl⟩)
  · exact .inl hr.ctrl

/-- Settles O53: SINIT, ACK and a write to `CTRL` need an idle core, so `BUSY` falls in a routine step or by `rst`. -/
theorem eventFlagRules : Obligations.EventFlagRules := by
  intro s t h
  rcases step_routine_or h with ⟨hm, rfl⟩ | ⟨hc, hb, rfl⟩ | ⟨hc, hb, rfl⟩ | ⟨d, ms, hm, hb, rfl⟩ | hr
  · exact ⟨fun _ _ => .inr (.inr hm), fun _ _ => .inr hm⟩
  · exact ⟨fun _ _ => .inr (.inl hc), by simp [hb]⟩
  · exact ⟨fun _ _ => .inl hc, by simp [hb]⟩
  · exact ⟨fun he hf => absurd (he.symm.trans hf) nofun, by simp [hb]⟩
  · exact ⟨fun he hf => absurd ((hr.evt he).symm.trans hf) nofun, fun hb hb' => .inl (hr.busyFalls hb hb')⟩

/-- Settles O51: `rst` and SINIT end in INIT, ACK and a write to `CTRL` touch neither parameters nor results, and every
other step is routine. -/
theorem parametersFixedAfterAcceptance : Obligations.ParametersFixedAfterAcceptance := by
  intro s t h
  rcases step_routine_or h with ⟨hm, rfl⟩ | ⟨hc, -, rfl⟩ | ⟨-, -, rfl⟩ | ⟨d, ms, -, -, rfl⟩ | hr
  · exact ⟨fun _ hi => absurd rfl hi, fun _ hno => absurd hm hno.2, fun _ hi => absurd rfl hi⟩
  · exact ⟨fun _ hi => absurd rfl hi, fun _ hno => absurd hc hno.1, fun _ hi => absurd rfl hi⟩
  · exact ⟨fun _ _ => sameParams_rfl, fun he _ => he, fun _ _ => sameResults_rfl⟩
  · exact ⟨fun _ _ => sameParams_rfl, fun he _ => he, fun _ _ => sameResults_rfl⟩
  · exact ⟨fun hi _ => hr.params hi, fun he _ => hr.ended he, fun he _ => hr.results he⟩

end Sys2Proof.Machine
end

section
/-! The status words as numbers, and the reset values (10_state.md R23, R24, R44). -/

namespace Sys2Proof.Machine

/-- A field put above `n` bits counts `2 ^ n` times. -/
theorem toNat_append_eq_add {m n : Nat} (x : BitVec m) (y : BitVec n) :
    (x ++ y).toNat = 2 ^ n * x.toNat + y.toNat := by
  rw [BitVec.toNat_append, ← Nat.shiftLeft_add_eq_or_of_lt y.isLt, Nat.shiftLeft_eq, Nat.mul_comm]

theorem statusWord_toNat (s : State) :
    (statusWord s).toNat = s.phase.bits.toNat + 8 * s.busy.toNat + 16 * s.evt.toNat + 32 * s.dir.toNat := by
  rw [statusWord, BitVec.toNat_setWidth_of_le (by decide)]
  simp only [toNat_append_eq_add, BitVec.toNat_ofBool]
  omega

theorem ctrlWord_toNat (s : State) : (ctrlWord s).toNat = s.ie.toNat + 2 * s.enforce.toNat := by
  rw [ctrlWord, BitVec.toNat_setWidth_of_le (by decide)]
  simp only [toNat_append_eq_add, BitVec.toNat_ofBool]
  omega

/-- Settles O23: the words are sums of their fields, and the phase bits are the listed numbers. -/
theorem statusAndCtrlLayout : Obligations.StatusAndCtrlLayout := by
  intro s
  refine ⟨?_, ctrlWord_toNat s⟩
  rw [statusWord_toNat]
  cases s.phase <;> rfl

/-- Settles O29: the memories are empty lists, and the size 0 has no minimum key length. -/
theorem resetValues : Obligations.ResetValues := by
  unfold Obligations.ResetValues
  refine ⟨by decide, by decide, rfl, rfl, rfl, rfl, by decide, rfl, rfl, rfl, rfl, rfl, rfl, rfl, rfl, rfl, ?_, rfl,
    rfl, rfl, rfl⟩
  exact fun a => ⟨Memory.read_nil a, Memory.read_nil a, Memory.read_nil a⟩

end Sys2Proof.Machine
end

section
/-! The host register port (20_memory.md R60 to R63): what an access to a register does in an idle core and in a busy one,
and the accesses that are always refused. -/

namespace Sys2Proof.Machine

/-! ### A step and the host's move -/

theorem popHost_of_cons {s : State} {m : HostMove} {ms : List HostMove} (hm : s.host = m :: ms) :
    s.popHost = { s with host := ms } := by
  rw [State.popHost, hm, List.tail_cons]

/-- A read is answered, and only the answers and the host's list change. -/
theorem step_of_read {s : State} {n : Byte} {ms : List HostMove} (hm : s.host = .read n :: ms) :
    step s = .next { s with host := ms, answers := hostRead n s :: s.answers } := by
  rw [step_of_move hm, popHost_of_cons hm]; rfl

theorem step_of_write {s : State} {n : Byte} {d : Word64} {ms : List HostMove} (hm : s.host = .write n d :: ms) :
    step s = hostWrite n d { s with host := ms } := by
  rw [step_of_move hm, popHost_of_cons hm]; rfl

/-! ### Register numbers -/

@[simp] theorem ofNumber_number (r : Reg) : Reg.ofNumber r.number = some r := by cases r <;> rfl

theorem number_toNat_le (r : Reg) : r.number.toNat ≤ 16 := by cases r <;> decide

/-- The numbers 17 to 255 are not implemented (10_state.md R21). -/
theorem ofNumber_eq_none {n : Byte} (hn : 17 ≤ n.toNat) : Reg.ofNumber n = none := by
  cases hr : Reg.ofNumber n with
  | none => rfl
  | some r =>
    have hle := number_toNat_le r
    rw [← eq_number_of_ofNumber hr] at hle
    omega

/-! ### Accesses to an idle core -/

theorem hostRead_of_idle {s : State} (hb : s.busy = false) (r : Reg) :
    hostRead r.number s = .value (readReg r s) := by
  simp [hostRead, hb]

theorem hostWrite_of_idle {s : State} (hb : s.busy = false) (r : Reg) (d : Word64) :
    hostWrite r.number d s = writeReg r d s := by
  simp [hostWrite, hb]

/-! ### Accesses that are refused -/

/-- An unimplemented number is refused on read, busy or not (R62). -/
theorem hostRead_of_unimplemented {n : Byte} (hn : 17 ≤ n.toNat) (s : State) : hostRead n s = .err := by
  rw [hostRead, ofNumber_eq_none hn]

/-- The read-only numbers 1 and 5 to 16 and the unimplemented ones are refused on write, busy or not (R61 row 10, R62). -/
theorem hostWrite_of_unwritable {n : Byte} (hn : n.toNat = 1 ∨ 5 ≤ n.toNat) (d : Word64) (s : State) :
    hostWrite n d s = .next (s.reply .err) := by
  unfold hostWrite
  split
  · rfl
  · next r hr =>
    cases eq_number_of_ofNumber hr
    split
    · rfl
    · cases r with
      | cmd | ctrl | size | chunk => simp [Reg.number] at hn
      | _ => rfl

/-- A busy core refuses every write (R63). -/
theorem hostWrite_of_busy {s : State} (hb : s.busy = true) (n : Byte) (d : Word64) :
    hostWrite n d s = .next (s.reply .err) := by
  unfold hostWrite
  split
  · rfl
  · rw [if_pos hb]

/-- A busy core refuses every read but that of `STATUS` (R63). -/
theorem hostRead_of_busy {s : State} (hb : s.busy = true) {n : Byte} (hn : n ≠ 1) : hostRead n s = .err := by
  unfold hostRead
  split
  · rfl
  · next r hr =>
    have hr' : r ≠ .status := by rintro rfl; exact hn (eq_number_of_ofNumber hr)
    rw [if_pos (by simp [hb, hr'])]

/-- `STATUS` is readable, busy or not. -/
theorem hostRead_status (s : State) : hostRead 1 s = .value (statusWord s) := by
  simp [hostRead, Reg.ofNumber, readReg]

/-! ### `MINKLEN` -/

/-- The advisor's value is at most 42, so it fits its register. -/
theorem advisor_lt {size k : Nat} (hk : advisor size = some k) : k < 256 := by
  have hcount := List.countP_le_length (p := fun t => decide (t < size)) (l := advisorThresholds)
  have hlen : advisorThresholds.length = 40 := by decide
  unfold advisor at hk
  split at hk
  · cases hk
  · cases hk; omega

theorem advisor_of_pos {size : Nat} (hs : 1 ≤ size) : ∃ k, advisor size = some k := by
  rw [advisor, if_neg (by omega)]; exact ⟨_, rfl⟩

/-- For a legal `SIZE` the register holds the advisor's value without loss (10_state.md R30). -/
theorem minKeyLength_of_legal {size : Word64} (hs : sizeLegal size = true) :
    advisor size.toNat = some (minKeyLength size).toNat := by
  obtain ⟨k, hk⟩ := advisor_of_pos ((sizeLegal_iff size).1 hs).1
  rw [minKeyLength, if_pos hs, hk, Option.getD_some, BitVec.toNat_ofNat, Nat.mod_eq_of_lt (advisor_lt hk)]

theorem minKeyLength_of_illegal {size : Word64} (hs : sizeLegal size ≠ true) : minKeyLength size = 0 :=
  if_neg hs

/-! ### The rules of the port -/

/-- Settles O22: an idle core answers each of the 17 numbers with its register; for `MINKLEN` the two conditions are a
legal and an illegal `SIZE`. -/
theorem hostReadAnswersRegisters : Obligations.HostReadAnswersRegisters := by
  intro s hb
  have hread := hostRead_of_idle hb
  refine ⟨fun _ _ => step_of_read, hread .cmd, hread .status, hread .ctrl, hread .size, hread .chunk, hread .klen1,
    hread .klen2, ⟨_, hread .minklen, fun hpos hmax => ?_, fun hout => ?_⟩, hread .strength, hread .pos, hread .csum,
    hread .mac0, hread .mac1, hread .mac2, hread .mac3, hread .err, hread .errinfo⟩
  · have hlegal : sizeLegal s.size = true := (sizeLegal_iff _).2 (by omega)
    rw [readReg, BitVec.toNat_setWidth_of_le (by decide), minKeyLength_of_legal hlegal]
  · have hillegal : sizeLegal s.size ≠ true := by rw [Ne, sizeLegal_iff]; omega
    rw [readReg, minKeyLength_of_illegal hillegal]; rfl

/-- Settles O24: an idle core takes the write, and `SIZE` and `CHUNK` ask for INIT. -/
theorem hostWritesOfParameters : Obligations.HostWritesOfParameters := by
  intro s d ms hb
  have hwrite : ∀ r : Reg, s.host = .write r.number d :: ms → step s = writeReg r d { s with host := ms } :=
    fun r hm => (step_of_write hm).trans (hostWrite_of_idle (s := { s with host := ms }) hb r d)
  refine ⟨fun hm => hwrite .ctrl hm, fun hm => ⟨fun hp => ?_, fun hp => ?_⟩, fun hm => ⟨fun hp => ?_, fun hp => ?_⟩⟩
  · exact (hwrite .size hm).trans (if_pos hp)
  · exact (hwrite .size hm).trans (if_neg hp)
  · exact (hwrite .chunk hm).trans (if_pos hp)
  · exact (hwrite .chunk hm).trans (if_neg hp)

/-- Settles O25: an unimplemented number names no register, and a read-only one has no write. -/
theorem forbiddenAccessesAnswerErr : Obligations.ForbiddenAccessesAnswerErr := by
  intro s n d ms
  refine ⟨fun hm hn => ?_, fun hm hn => ?_⟩
  · rw [step_of_read hm, hostRead_of_unimplemented hn]
  · rw [step_of_write hm, hostWrite_of_unwritable hn]; rfl

/-- Settles O26: the port of a busy core refuses all but the read of `STATUS`, and `rst` gives the reset phase. -/
theorem busyPortRefusesEverything : Obligations.BusyPortRefusesEverything := by
  intro s ms n hb
  refine ⟨fun d hm => ?_, fun hm hn => ?_, fun hm => ?_, fun hm => ?_⟩
  · rw [step_of_write hm, hostWrite_of_busy (s := { s with host := ms }) hb]; rfl
  · rw [step_of_read hm, hostRead_of_busy hb hn]
  · rw [step_of_read hm, hostRead_status]
  · exact ⟨hardReset s.popHost, step_of_move hm, hardReset_busy _, hardReset_phase _⟩

end Sys2Proof.Machine
end

section
/-! Noninterference of the host port (20_memory.md R81): states that differ in the matrices and the chunk buffer only
answer the host alike and stay alike, as long as the core is idle. -/

namespace Sys2Proof.Machine

/-- `t` is `s` but for the secrets that have no read path: `M1`, `M2` and `BUF` (10_state.md R39, R41). -/
def SameButSecrets (s t : State) : Prop := ∃ x y z : Memory, t = { s with m1 := x, m2 := y, buf := z }

/-- When the first outcome is a next state, the second is one that is the same but for the secrets. -/
def SameOutcome (r r' : Result) : Prop := ∀ s, r = .next s → ∃ t, r' = .next t ∧ SameButSecrets s t

namespace SameButSecrets

variable {s t : State}

theorem next (h : SameButSecrets s t) : SameOutcome (.next s) (.next t) := by
  rintro _ ⟨⟩; exact ⟨t, rfl, h⟩

theorem busy_eq (h : SameButSecrets s t) : t.busy = s.busy := by obtain ⟨x, y, z, rfl⟩ := h; rfl

theorem phase_eq (h : SameButSecrets s t) : t.phase = s.phase := by obtain ⟨x, y, z, rfl⟩ := h; rfl

theorem host_eq (h : SameButSecrets s t) : t.host = s.host := by obtain ⟨x, y, z, rfl⟩ := h; rfl

/-! ### Reads and the shared operations -/

theorem readReg_eq (h : SameButSecrets s t) (r : Reg) : readReg r t = readReg r s := by
  obtain ⟨x, y, z, rfl⟩ := h; cases r <;> rfl

theorem hostRead_eq (h : SameButSecrets s t) (n : Byte) : hostRead n t = hostRead n s := by
  simp only [hostRead, h.busy_eq, h.readReg_eq]

theorem popHost (h : SameButSecrets s t) : SameButSecrets s.popHost t.popHost := by
  obtain ⟨x, y, z, rfl⟩ := h; exact ⟨x, y, z, rfl⟩

theorem reply (h : SameButSecrets s t) (a : Answer) : SameButSecrets (s.reply a) (t.reply a) := by
  obtain ⟨x, y, z, rfl⟩ := h; exact ⟨x, y, z, rfl⟩

theorem raiseFatal (h : SameButSecrets s t) (c : Cause) (info : Word64) :
    SameButSecrets (raiseFatal c info s) (raiseFatal c info t) := by
  obtain ⟨x, y, z, rfl⟩ := h; exact ⟨x, y, z, rfl⟩

/-! ### Commands -/

/-- No effect of a command looks into the matrices or the buffer: a key push writes its cell without reading, and BUILD,
ENC and DEC leave the work to the core's own steps. -/
theorem commandEffect (h : SameButSecrets s t) (i : Instr) :
    SameButSecrets (commandEffect i s) (commandEffect i t) := by
  obtain ⟨x, y, z, rfl⟩ := h
  cases i with
  | kpush1 b =>
    simp only [Machine.commandEffect, pushKey1]
    split <;> exact ⟨_, _, _, rfl⟩
  | kpush2 b =>
    simp only [Machine.commandEffect, pushKey2]
    split <;> exact ⟨_, _, _, rfl⟩
  | kaccept =>
    have hcheck : acceptFailure { s with m1 := x, m2 := y, buf := z } = acceptFailure s := rfl
    simp only [Machine.commandEffect, acceptKeys, hcheck]
    split <;> exact ⟨x, y, z, rfl⟩
  | sinit => exact ⟨[], [], [], rfl⟩
  | nop | build | enc | dec | ack => exact ⟨x, y, z, rfl⟩

/-- The gate of the commands looks at `BUSY` and `PHASE` only (30_encoding.md R95). -/
theorem exec (h : SameButSecrets s t) (i : Instr) : SameOutcome (exec i s) (exec i t) := by
  simp only [exec_eq_command, command, h.busy_eq, h.phase_eq]
  split
  · exact (h.reply _).next
  · split
    · exact (h.reply _).next
    · split
      · exact ((h.commandEffect i).reply _).next
      · exact ((h.raiseFatal _ _).reply _).next

theorem rejectWord (h : SameButSecrets s t) (e : IllegalWord) (d : Word64) :
    SameOutcome (rejectWord e d s) (rejectWord e d t) := by
  simp only [Machine.rejectWord, h.busy_eq, h.phase_eq]
  split
  · exact (h.reply _).next
  · split
    · exact (h.reply _).next
    · exact ((h.raiseFatal _ _).reply _).next

theorem writeCmd (h : SameButSecrets s t) (d : Word64) : SameOutcome (writeCmd d s) (writeCmd d t) := by
  unfold Machine.writeCmd
  split
  · exact h.exec _
  · exact h.rejectWord _ d

/-! ### The host's moves -/

theorem writeReg (h : SameButSecrets s t) (r : Reg) (d : Word64) : SameOutcome (writeReg r d s) (writeReg r d t) := by
  cases r with
  | cmd => exact h.writeCmd d
  | ctrl => obtain ⟨x, y, z, rfl⟩ := h; exact next ⟨x, y, z, rfl⟩
  | size | chunk =>
    simp only [Machine.writeReg, h.phase_eq]
    split
    · obtain ⟨x, y, z, rfl⟩ := h; exact next ⟨x, y, z, rfl⟩
    · exact (h.reply _).next
  | _ => exact (h.reply _).next

theorem hostWrite (h : SameButSecrets s t) (n : Byte) (d : Word64) :
    SameOutcome (hostWrite n d s) (hostWrite n d t) := by
  simp only [Machine.hostWrite, h.busy_eq]
  split
  · exact (h.reply _).next
  · split
    · exact (h.reply _).next
    · exact h.writeReg _ d

/-- `rst` clears the secrets in both. -/
theorem hardReset (h : SameButSecrets s t) : SameButSecrets (hardReset s) (hardReset t) := by
  obtain ⟨x, y, z, rfl⟩ := h; exact ⟨[], [], [], rfl⟩

theorem supplyStore (h : SameButSecrets s t) (data : List Byte) :
    SameOutcome (supplyStore data s) (supplyStore data t) := by
  simp only [Machine.supplyStore, h.phase_eq]
  split
  · nofun
  · obtain ⟨x, y, z, rfl⟩ := h; exact next ⟨x, y, z, rfl⟩

/-- An idle core has no step of its own (10_state.md R27), in which the matrices would be used. -/
theorem coreStep_of_idle (h : SameButSecrets s t) (hb : s.busy = false) : SameOutcome (coreStep s) (coreStep t) := by
  simp only [Machine.coreStep, h.busy_eq, hb, Bool.false_eq_true, if_false]
  exact h.next

theorem hostMove_of_idle (h : SameButSecrets s t) (hb : s.busy = false) (m : HostMove) :
    SameOutcome (hostMove m s) (hostMove m t) := by
  cases m with
  | read n => simp only [hostMove, h.hostRead_eq]; exact (h.reply _).next
  | write n d => exact h.hostWrite n d
  | rst => exact h.hardReset.next
  | supply data => exact h.supplyStore data
  | yield => exact h.coreStep_of_idle hb

theorem step_of_idle (h : SameButSecrets s t) (hb : s.busy = false) : SameOutcome (step s) (step t) := by
  cases hm : s.host with
  | nil => rw [step_core hm, step_core (h.host_eq.trans hm)]; exact h.coreStep_of_idle hb
  | cons m ms =>
    rw [step_of_move hm, step_of_move (h.host_eq.trans hm)]
    exact h.popHost.hostMove_of_idle hb m

end SameButSecrets

/-- Settles O28: the step of an idle core is a host move, and no host move looks into the matrices or the buffer. -/
theorem hostMovesRevealNoSecret : Obligations.HostMovesRevealNoSecret := by
  intro s t x y z hb hstep
  obtain ⟨_, hstep', x', y', z', rfl⟩ := SameButSecrets.step_of_idle ⟨x, y, z, rfl⟩ hb t hstep
  exact ⟨x', y', z', hstep'⟩

/-- Settles O27: every register is the same in both states, and so is `BUSY`, on which the port's refusal rests. -/
theorem secretsHaveNoReadPath : Obligations.SecretsHaveNoReadPath :=
  fun _ x y z n => SameButSecrets.hostRead_eq ⟨x, y, z, rfl⟩ n

end Sys2Proof.Machine
end

section
/-! The encoding of the commands (30_encoding.md R90 to R99): a word is its three fields, the decoder and the encoder
are inverse to each other, and the words outside the encoding have the causes of R94. -/

namespace Sys2Proof

open Machine

/-! ### The fields of a word (R90) -/

theorem opcodeField_toNat (d : Word64) : (opcodeField d).toNat = d.toNat % 256 := by
  simp [opcodeField]

theorem imm8Field_toNat (d : Word64) : (imm8Field d).toNat = d.toNat / 256 % 256 := by
  simp [imm8Field, Nat.shiftRight_eq_div_pow]

theorem rsvdField_toNat (d : Word64) : (rsvdField d).toNat = d.toNat / 65536 := by
  simp only [rsvdField, BitVec.extractLsb'_toNat, Nat.shiftRight_eq_div_pow]
  omega

theorem commandData_toNat (b o : Byte) : (commandData b o).toNat = 256 * b.toNat + o.toNat := by
  rw [commandData, BitVec.toNat_setWidth_of_le (by decide), toNat_append_eq_add]
  rfl

@[simp] theorem opcodeField_commandData (b o : Byte) : opcodeField (commandData b o) = o := by
  apply BitVec.eq_of_toNat_eq
  rw [opcodeField_toNat, commandData_toNat]
  omega

@[simp] theorem imm8Field_commandData (b o : Byte) : imm8Field (commandData b o) = b := by
  apply BitVec.eq_of_toNat_eq
  rw [imm8Field_toNat, commandData_toNat]
  omega

@[simp] theorem rsvdField_commandData (b o : Byte) : rsvdField (commandData b o) = 0 := by
  apply BitVec.eq_of_toNat_eq
  rw [rsvdField_toNat, commandData_toNat, BitVec.ofNat_eq_ofNat, BitVec.toNat_zero]
  omega

/-- With the reserved bits clear a word is its opcode and its immediate. -/
theorem commandData_fields {d : Word64} (hr : rsvdField d = 0) : commandData (imm8Field d) (opcodeField d) = d := by
  have hrsvd : d.toNat / 65536 = 0 := by rw [← rsvdField_toNat, hr]; rfl
  apply BitVec.eq_of_toNat_eq
  rw [commandData_toNat, imm8Field_toNat, opcodeField_toNat]
  omega

theorem lowWord_commandData (b o : Byte) : (commandData b o).extractLsb' 0 16 = b ++ o := by
  rw [commandData, BitVec.extractLsb'_setWidth_of_le (by decide), BitVec.extractLsb'_eq_self]

/-! ### The decoder and the encoder (R91, R95 step 1) -/

theorem decode_of_reserved {d : Word64} (hr : rsvdField d ≠ 0) : decode d = .error .reservedBits := if_neg hr

theorem decode_of_unknown {d : Word64} (hr : rsvdField d = 0) (ho : 9 ≤ (opcodeField d).toNat) :
    decode d = .error .unknownOpcode := by
  rw [decode, if_pos hr]
  split
  case h_10 => rfl
  all_goals omega

/-- A format `B` word is a command, whatever its immediate. -/
theorem decode_formatB {d : Word64} (hr : rsvdField d = 0)
    (ho : (opcodeField d).toNat = 2 ∨ (opcodeField d).toNat = 3) : ∃ i, decode d = .ok i ∧ encode i = d := by
  rcases ho with ho | ho
  · refine ⟨.kpush1 (imm8Field d), by rw [decode, if_pos hr, ho]; rfl, ?_⟩
    rw [encode, ← BitVec.eq_of_toNat_eq (y := 2) ho, commandData_fields hr]
  · refine ⟨.kpush2 (imm8Field d), by rw [decode, if_pos hr, ho]; rfl, ?_⟩
    rw [encode, ← BitVec.eq_of_toNat_eq (y := 3) ho, commandData_fields hr]

/-- The opcode of a format `Z` word names a command, and what is left to check is that the immediate is 0. -/
theorem decode_formatZ {d : Word64} (hr : rsvdField d = 0) (h8 : (opcodeField d).toNat ≤ 8)
    (h2 : (opcodeField d).toNat ≠ 2) (h3 : (opcodeField d).toNat ≠ 3) :
    ∃ i, decode d = decodeFormatZ i d ∧ encode i = commandData 0 (opcodeField d) := by
  have ho : opcodeField d = BitVec.ofNat 8 (opcodeField d).toNat := by simp
  rw [decode, if_pos hr]
  generalize (opcodeField d).toNat = n at *
  rw [ho]
  have hn : n = 0 ∨ n = 1 ∨ n = 4 ∨ n = 5 ∨ n = 6 ∨ n = 7 ∨ n = 8 := by omega
  rcases hn with rfl | rfl | rfl | rfl | rfl | rfl | rfl <;> exact ⟨_, rfl, rfl⟩

/-- The words that pass the three checks of R94 are commands, and each is the encoding of its command. -/
theorem decode_of_wellFormed {d : Word64} (hr : rsvdField d = 0) (h8 : (opcodeField d).toNat ≤ 8)
    (hf : (opcodeField d).toNat = 2 ∨ (opcodeField d).toNat = 3 ∨ imm8Field d = 0) :
    ∃ i, decode d = .ok i ∧ encode i = d := by
  by_cases hB : (opcodeField d).toNat = 2 ∨ (opcodeField d).toNat = 3
  · exact decode_formatB hr hB
  · have him : imm8Field d = 0 := by tauto
    obtain ⟨i, hd, he⟩ := decode_formatZ hr h8 (by tauto) (by tauto)
    refine ⟨i, hd.trans (if_pos him), ?_⟩
    rw [he, ← him, commandData_fields hr]

theorem decode_of_immOnFormatZ {d : Word64} (hr : rsvdField d = 0) (h8 : (opcodeField d).toNat ≤ 8)
    (h2 : (opcodeField d).toNat ≠ 2) (h3 : (opcodeField d).toNat ≠ 3) (him : imm8Field d ≠ 0) :
    decode d = .error .immOnFormatZ := by
  obtain ⟨i, hd, -⟩ := decode_formatZ hr h8 h2 h3
  exact hd.trans (if_neg him)

/-- Settles O1: the decoder finds each field where the encoder put it. -/
theorem decodeOfEncode : Obligations.DecodeOfEncode := by
  intro i
  cases i with
  | kpush1 b | kpush2 b => simp [encode, decode]
  | _ => simp [encode, decode, decodeFormatZ]

/-- Settles O2: a word that decodes is none of the illegal ones of R94, and every other word is an encoding. -/
theorem encodeOfDecode : Obligations.EncodeOfDecode := by
  intro d i hd
  have hr : rsvdField d = 0 := by
    by_contra hr
    simp [decode_of_reserved hr] at hd
  have h8 : (opcodeField d).toNat ≤ 8 := by
    by_contra h8
    simp [decode_of_unknown hr (by omega)] at hd
  have hf : (opcodeField d).toNat = 2 ∨ (opcodeField d).toNat = 3 ∨ imm8Field d = 0 := by
    by_contra hf
    push Not at hf
    obtain ⟨h2, h3, him⟩ := hf
    simp [decode_of_immOnFormatZ hr h8 h2 h3 him] at hd
  obtain ⟨j, hj, he⟩ := decode_of_wellFormed hr h8 hf
  cases hd.symm.trans hj
  exact he

/-- Settles O4: the three illegal words in R95's order, and the words that pass its three checks. -/
theorem illegalWordsAndTheirCauses : Obligations.IllegalWordsAndTheirCauses := by
  intro d
  refine ⟨fun hr => ⟨_, decode_of_reserved hr, rfl⟩, fun hr ho => ⟨_, decode_of_unknown hr ho, rfl⟩,
    fun hr h8 h2 h3 him => ⟨_, decode_of_immOnFormatZ hr h8 h2 h3 him, rfl⟩, fun hr h8 hf => ?_⟩
  obtain ⟨i, hd, -⟩ := decode_of_wellFormed hr h8 hf
  exact ⟨i, hd⟩

/-- Settles O5: R99's words and those of 95_test_vectors.md section 8. -/
theorem workedWordsDecode : Obligations.WorkedWordsDecode :=
  ⟨rfl, rfl, decodeOfEncode (.kpush1 0x61), decodeOfEncode (.kpush2 0xFF), decodeOfEncode .build, decodeOfEncode .enc,
    decodeOfEncode .ack, by decide, rfl, by decide, rfl, by decide, rfl⟩

/-! ### The opcode map (R93) -/

theorem opcodeInMap (i : Instr) : Laws.OpcodeInMap.Statement i := by
  cases i with
  | nop => exact Laws.OpcodeInMap.nop
  | sinit => exact Laws.OpcodeInMap.sinit
  | kpush1 b => exact Laws.OpcodeInMap.kpush1 b
  | kpush2 b => exact Laws.OpcodeInMap.kpush2 b
  | kaccept => exact Laws.OpcodeInMap.kaccept
  | build => exact Laws.OpcodeInMap.build
  | enc => exact Laws.OpcodeInMap.enc
  | dec => exact Laws.OpcodeInMap.dec
  | ack => exact Laws.OpcodeInMap.ack

/-- No two rows of the map have the same mnemonic. -/
theorem eq_of_mnemonic_eq {r r' : OpcodeRow} (hr : r ∈ opcodeMap) (hr' : r' ∈ opcodeMap)
    (h : r.mnemonic = r'.mnemonic) : r = r' :=
  List.inj_on_of_nodup_map (f := OpcodeRow.mnemonic) (by decide) hr hr' h

/-- An encoded command is selected by the row with its mnemonic. -/
theorem selects_encode {i : Instr} {r : OpcodeRow} (hr : r ∈ opcodeMap) (h : i.mnemonic = r.mnemonic) :
    r.selects ((encode i).extractLsb' 0 16) = true := by
  obtain ⟨hrow, -⟩ := opcodeInMap i
  simp only [List.any_eq_true, Bool.and_eq_true, beq_iff_eq] at hrow
  obtain ⟨r', hr', hm, hsel⟩ := hrow
  rwa [eq_of_mnemonic_eq hr hr' (h.symm.trans hm.symm)]

/-- A format `Z` row selects one word. -/
theorem eq_commandData_of_fullMask {d : Word64} {o : Byte} (hr : rsvdField d = 0)
    (h : d.extractLsb' 0 16 &&& 0xFFFF = (0 : Byte) ++ o) : d = commandData 0 o := by
  have hlow : imm8Field d ++ opcodeField d = (0 : Byte) ++ o := by
    rw [← lowWord_commandData, commandData_fields hr, ← h]
    exact BitVec.and_allOnes.symm
  rw [← commandData_fields hr, commandData, hlow, commandData]

/-- The mask of format `B` leaves the opcode. -/
theorem append_and_opcodeMask (b o : Byte) : (b ++ o) &&& (0x00FF : CmdWord) = (0 : Byte) ++ o :=
  (BitVec.and_append (x₂ := 0#8) (y₂ := BitVec.allOnes 8)).trans (congrArg₂ _ BitVec.and_zero BitVec.and_allOnes)

/-- A format `B` row selects the words with its opcode, whatever their immediate. -/
theorem eq_commandData_of_opcodeMask {d : Word64} {o : Byte} (hr : rsvdField d = 0)
    (h : d.extractLsb' 0 16 &&& 0x00FF = (0 : Byte) ++ o) : d = commandData (imm8Field d) o := by
  have hlow : (0 : Byte) ++ opcodeField d = (0 : Byte) ++ o := by
    rw [← h, ← append_and_opcodeMask (imm8Field d), ← lowWord_commandData, commandData_fields hr]
  rw [← (BitVec.append_right_inj _).1 hlow, commandData_fields hr]

/-- The command of a format `Z` row is read from the word the row selects. -/
theorem decode_of_fullMask {d : Word64} {o : Byte} {i : Instr} (he : encode i = commandData 0 o)
    (hr : rsvdField d = 0) (h : d.extractLsb' 0 16 &&& 0xFFFF = (0 : Byte) ++ o) : decode d = .ok i := by
  rw [eq_commandData_of_fullMask hr h, ← he, decodeOfEncode]

/-- The command of a format `B` row is read, with its immediate, from every word the row selects. -/
theorem decode_of_opcodeMask {d : Word64} {o : Byte} {i : Instr} (he : encode i = commandData (imm8Field d) o)
    (hr : rsvdField d = 0) (h : d.extractLsb' 0 16 &&& 0x00FF = (0 : Byte) ++ o) : decode d = .ok i := by
  rw [eq_commandData_of_opcodeMask hr h, ← he, decodeOfEncode]

/-- Settles O3: the word that a row selects is the encoding of the row's command, and back. -/
theorem decodeFollowsOpcodeMap : Obligations.DecodeFollowsOpcodeMap := by
  intro d r hmem
  constructor
  · rintro ⟨hr, hsel⟩
    simp only [opcodeMap, List.mem_cons, List.not_mem_nil, or_false] at hmem
    rcases hmem with rfl | rfl | rfl | rfl | rfl | rfl | rfl | rfl | rfl
    · exact ⟨.nop, decode_of_fullMask rfl hr hsel, rfl⟩
    · exact ⟨.sinit, decode_of_fullMask rfl hr hsel, rfl⟩
    · exact ⟨.kpush1 (imm8Field d), decode_of_opcodeMask rfl hr hsel, rfl⟩
    · exact ⟨.kpush2 (imm8Field d), decode_of_opcodeMask rfl hr hsel, rfl⟩
    · exact ⟨.kaccept, decode_of_fullMask rfl hr hsel, rfl⟩
    · exact ⟨.build, decode_of_fullMask rfl hr hsel, rfl⟩
    · exact ⟨.enc, decode_of_fullMask rfl hr hsel, rfl⟩
    · exact ⟨.dec, decode_of_fullMask rfl hr hsel, rfl⟩
    · exact ⟨.ack, decode_of_fullMask rfl hr hsel, rfl⟩
  · rintro ⟨i, hd, hm⟩
    cases encodeOfDecode d i hd
    obtain ⟨-, hr⟩ := opcodeInMap i
    exact ⟨eq_of_beq hr, eq_of_beq (selects_encode hmem hm)⟩

end Sys2Proof
end

section
/-! A write to `CMD` (30_encoding.md R95): what becomes of a command in a phase where it does not run and of an illegal
word, and the step that carries the write. -/

namespace Sys2Proof.Machine

/-! ### The gate of the commands -/

theorem command_busy {s : State} (hb : s.busy = true) (i : Instr) (effect : State → State) :
    command i effect s = .next (s.reply .err) := if_pos hb

/-- FATAL drops a command (R95 step 1). -/
theorem command_dropped {i : Instr} {s : State} (hb : s.busy = false) (hp : s.phase = .fatal)
    (hi : runsInFatal i = false) (effect : State → State) : command i effect s = .next (s.reply .err) := by
  rw [command, if_neg (by simp [hb]), if_pos ⟨hp, hi⟩]

/-- A command in a phase where it is not legal is the Fatal entry of sub-cause 3 (R95 step 3). -/
theorem command_illegal {i : Instr} {s : State} (hb : s.busy = false) (hp : s.phase ≠ .fatal)
    (hl : legalIn i s.phase = false) (effect : State → State) :
    command i effect s = .next ((raiseFatal .wrongPhase (encode i) s).reply .done) := by
  rw [command, if_neg (by simp [hb]), if_neg (fun h => hp h.1), if_neg (by simp [hl])]

/-- The commands with a phase of their own, out of that phase. -/
theorem legalIn_eq_false_iff (i : Instr) (p : Phase) : legalIn i p = false ↔
    ((∃ b, i = .kpush1 b) ∨ (∃ b, i = .kpush2 b) ∨ i = .kaccept) ∧ p ≠ .init ∨
      i = .build ∧ p ≠ .keysAccepted ∨ (i = .enc ∨ i = .dec) ∧ p ≠ .matricesBuilt := by
  cases i <;> simp [legalIn]

theorem runsInFatal_eq_false {i : Instr} (hnop : i ≠ .nop) (hsinit : i ≠ .sinit) (hack : i ≠ .ack) :
    runsInFatal i = false := by
  cases i with
  | nop | sinit | ack => contradiction
  | _ => rfl

/-- In an idle core the Fatal entry's write of `BUSY` changes nothing. -/
theorem raiseFatal_of_idle {s : State} (hb : s.busy = false) (c : Cause) (info : Word64) :
    raiseFatal c info s = { s with err := c.err, errinfo := info, phase := .fatal, evt := true } := by
  rw [raiseFatal, ← hb]

/-- Settles O18: the gate raises Fatal before it looks at the command's effect. -/
theorem wrongPhaseIsIllegalCommand : Obligations.WrongPhaseIsIllegalCommand := by
  intro s i hb hp hi
  rw [exec_eq_command, command_illegal hb hp ((legalIn_eq_false_iff i _).2 hi), raiseFatal_of_idle hb]
  rfl

/-- Settles O19: only NOP, SINIT and ACK pass the gate in FATAL. -/
theorem fatalPhaseDropsCommands : Obligations.FatalPhaseDropsCommands := by
  intro s i hb hp hnop hsinit hack
  rw [exec_eq_command, command_dropped hb hp (runsInFatal_eq_false hnop hsinit hack)]
  rfl

/-! ### A write to `CMD` -/

theorem rejectWord_dropped {s : State} (h : s.busy = true ∨ s.phase = .fatal) (e : IllegalWord) (d : Word64) :
    rejectWord e d s = .next (s.reply .err) := by
  rcases h with hb | hp
  · exact if_pos hb
  · rw [rejectWord, if_pos hp, ite_self]

theorem rejectWord_raises {s : State} (hb : s.busy = false) (hp : s.phase ≠ .fatal) (e : IllegalWord) (d : Word64) :
    rejectWord e d s = .next ((raiseFatal (illegalCause e) d s).reply .done) := by
  rw [rejectWord, if_neg (by simp [hb]), if_neg hp]

theorem writeCmd_of_busy {s : State} (hb : s.busy = true) (d : Word64) : writeCmd d s = .next (s.reply .err) := by
  unfold writeCmd
  split
  · rw [exec_eq_command, command_busy hb]
  · exact rejectWord_dropped (.inl hb) _ d

/-- The port's check of `BUSY` agrees with that of the command's own meaning (assumption 14). -/
theorem hostWrite_cmd (d : Word64) (s : State) : hostWrite 0 d s = writeCmd d s := by
  cases hb : s.busy with
  | true => rw [hostWrite_of_busy hb, writeCmd_of_busy hb]
  | false => exact hostWrite_of_idle hb .cmd d

theorem step_of_writeCmd {s : State} {d : Word64} {ms : List HostMove} (hm : s.host = .write 0 d :: ms) :
    step s = writeCmd d { s with host := ms } := by
  rw [step_of_write hm, hostWrite_cmd]

theorem step_of_command {s : State} {d : Word64} {ms : List HostMove} {i : Instr} (hm : s.host = .write 0 d :: ms)
    (hd : decode d = .ok i) : step s = exec i { s with host := ms } := by
  rw [step_of_writeCmd hm, writeCmd, hd]

theorem step_of_illegalWord {s : State} {d : Word64} {ms : List HostMove} {e : IllegalWord}
    (hm : s.host = .write 0 d :: ms) (hd : decode d = .error e) : step s = rejectWord e d { s with host := ms } := by
  rw [step_of_writeCmd hm, writeCmd, hd]

/-- Settles O7: the rejection of the word, in the state with the move taken off. -/
theorem stepRejectsIllegalWord : Obligations.StepRejectsIllegalWord := by
  intro s d ms e hm hd
  rw [step_of_illegalWord hm hd]
  refine ⟨fun h => ?_, fun hb hp => ?_⟩
  · rw [rejectWord_dropped (s := { s with host := ms }) h]; rfl
  · rw [rejectWord_raises (s := { s with host := ms }) hb hp]; rfl

/-! ### The steps that carry no command -/

theorem step_of_yield {s t : State} {ms : List HostMove} (hm : s.host = .yield :: ms)
    (h : step { s with host := [] } = .next t) : step s = .next { t with host := ms } := by
  rw [step_core rfl] at h
  rw [step_of_move hm, popHost_of_cons hm]
  exact coreStep_host ms h

/-- A busy core has an enabled step in the two phases that build and stream (10_state.md R27). -/
theorem coreStep_of_busy {s : State} (hb : s.busy = true) (hp : s.phase = .keysAccepted ∨ s.phase = .streaming) :
    ∃ t, coreStep s = .next t := by
  rcases hp with hp | hp <;> rw [coreStep, if_pos hb, hp] <;> exact ⟨_, rfl⟩

theorem coreStep_of_not_busy {s : State} (hb : s.busy = false) : coreStep s = .next s := by
  rw [coreStep, if_neg (by simp [hb])]

theorem step_of_supply {s : State} {data : List Byte} {ms : List HostMove} (hm : s.host = .supply data :: ms) :
    step s = supplyStore data { s with host := ms } := by
  rw [step_of_move hm, popHost_of_cons hm]; rfl

/-- A store filled from nothing reads as the supplied bytes, and 0 past them. -/
theorem read_supplied (data : List Byte) (a : Nat) : (Memory.writeRange [] 0 data).read a = data.getD a 0 := by
  rw [Memory.read_writeRange]
  split
  · rw [Nat.sub_zero]
  · rw [Memory.read_nil, List.getD_eq_default _ _ (by omega)]

/-- Settles O6: the clauses are the host's moves of a command, of `yield`, of none and of `supply`. -/
theorem stepRunsDecodedCommand : Obligations.StepRunsDecodedCommand := by
  refine ⟨fun _ _ _ _ => step_of_command, fun _ _ _ => step_of_yield, fun s hm => ?_, fun s data ms hm => ?_⟩
  · rw [step_core hm]
    exact ⟨coreStep_of_busy, coreStep_of_not_busy⟩
  · rw [step_of_supply hm]
    exact ⟨fun hp => if_pos hp, fun hp => ⟨_, if_neg hp, read_supplied data⟩⟩

end Sys2Proof.Machine
end

section
/-! The tables `ODD` and `INV` (40_oddtable_arith.md R110, R111): `ODD[x]` is exact in a byte, and `INV[x]` inverts it
among the bytes. -/

namespace Sys2Proof.Machine

@[simp] theorem oddTable_toNat (x : TableIndex) : (oddTable x).toNat = 2 * x.toNat + 1 := by
  rw [oddTable, BitVec.toNat_ofNat]
  exact Nat.mod_eq_of_lt (by omega)

/-- `INV` is a table of constants (R112), so its defining property is checked entry by entry. -/
@[simp] theorem oddTable_mul_invTable : ∀ x : TableIndex, oddTable x * invTable x = 1 := by decide

theorem oddTable_mul_invTable_toNat (x : TableIndex) : (oddTable x).toNat * (invTable x).toNat % 256 = 1 := by
  have h := congrArg BitVec.toNat (oddTable_mul_invTable x)
  rwa [BitVec.toNat_mul] at h

/-- An even `INV[x]` would make the product with `ODD[x]` even, but that is 1 modulo 256. -/
theorem invTable_odd (x : TableIndex) : (invTable x).toNat % 2 = 1 := by
  have hprod : Odd ((oddTable x).toNat * (invTable x).toNat) :=
    Nat.odd_iff.2 (by have := oddTable_mul_invTable_toNat x; omega)
  exact Nat.odd_iff.1 (Nat.odd_mul.1 hprod).2

/-- Settles O35: the two tables' rules and the parity of `INV[x]` that follows from them. -/
theorem inverseTable : Obligations.InverseTable := fun x =>
  ⟨oddTable_toNat x, oddTable_mul_invTable_toNat x, invTable_odd x⟩

end Sys2Proof.Machine
end

section
/-! The key-length advisor (41_keys_advisor.md R125, R126): its table is the floors of the powers of 53/20, so its value
is two more than the number of powers below the data size, and the growth loop counts the same powers. -/

namespace Sys2Proof.Machine

/-- `(53/20)^n < size` in exact integers, so a key of `n + 1` bytes is too short for `size` bytes (R125). -/
def GrowthBelow (size n : Nat) : Prop := 53 ^ n < size * 20 ^ n

/-- The growth factor is above 1, so a power below `size` has every earlier power below `size`. -/
theorem GrowthBelow.of_succ {size n : Nat} (h : GrowthBelow size (n + 1)) : GrowthBelow size n := by
  unfold GrowthBelow at *
  have hmul : 20 * 53 ^ n < 20 * (size * 20 ^ n) := by
    calc 20 * 53 ^ n ≤ 53 ^ (n + 1) := by rw [pow_succ]; omega
      _ < size * 20 ^ (n + 1) := h
      _ = 20 * (size * 20 ^ n) := by ring
  exact Nat.lt_of_mul_lt_mul_left hmul

theorem GrowthBelow.of_le {size m n : Nat} (h : GrowthBelow size n) (hmn : m ≤ n) : GrowthBelow size m :=
  Nat.decreasingInduction (motive := fun k _ => GrowthBelow size k) (fun _ _ => .of_succ) h hmn

/-- Forty rows suffice for every legal `SIZE` (R126). -/
theorem not_growthBelow_forty {size : Nat} (hs : size ≤ 2 ^ 56 - 1) : ¬ GrowthBelow size 40 := by
  have hrow : (2 ^ 56 - 1) * 20 ^ 40 ≤ 53 ^ 40 := by norm_num
  exact Nat.not_lt.2 ((Nat.mul_le_mul_right _ hs).trans hrow)

/-- The constants of R126 are the floors of the powers of 53/20. -/
theorem advisorThresholds_eq : advisorThresholds = (List.range 40).map fun n => 53 ^ (n + 1) / 20 ^ (n + 1) := by
  decide

theorem threshold_lt_iff (size n : Nat) : 53 ^ n / 20 ^ n < size ↔ GrowthBelow size n :=
  Nat.div_lt_iff_lt_mul (by positivity)

/-- Among the first `m` numbers, those with a property that passes down to smaller numbers come first. -/
theorem lt_countP_range_iff {p : Nat → Bool} (hp : ∀ i j, i ≤ j → p j = true → p i = true) (m n : Nat) :
    n < (List.range m).countP p ↔ n < m ∧ p n = true := by
  induction m with
  | zero => simp
  | succ m ih =>
    rw [List.range_succ, List.countP_append, List.countP_singleton]
    by_cases hm : p m = true
    · have hall : (List.range m).countP p = m := by
        rw [List.countP_eq_length.2 fun i hi => hp i m (List.mem_range.1 hi).le hm, List.length_range]
      rw [if_pos hm, hall]
      exact ⟨fun h => ⟨h, hp n m (by omega) hm⟩, And.left⟩
    · have hne : p n = true → n ≠ m := fun h e => hm (e ▸ h)
      rw [if_neg hm, Nat.add_zero, ih]
      exact ⟨fun ⟨h, hn⟩ => ⟨by omega, hn⟩, fun ⟨h, hn⟩ => ⟨by have := hne hn; omega, hn⟩⟩

/-- The rows of the table below `size` are the first ones, as many as there are powers below `size`. -/
theorem lt_rowsBelow_iff (size n : Nat) :
    n < advisorThresholds.countP (fun t => decide (t < size)) ↔ n < 40 ∧ GrowthBelow size (n + 1) := by
  have hdown : ∀ i j, i ≤ j → decide (53 ^ (j + 1) / 20 ^ (j + 1) < size) = true →
      decide (53 ^ (i + 1) / 20 ^ (i + 1) < size) = true := by
    simp only [decide_eq_true_eq, threshold_lt_iff]
    exact fun i j hij h => h.of_le (by omega)
  rw [advisorThresholds_eq, List.countP_map, ← threshold_lt_iff, ← decide_eq_true_eq (p := _ < size)]
  exact lt_countP_range_iff hdown 40 n

/-- What the advisor computes: `c + 1` is the first power of 53/20 that reaches `size`, and the value is `c + 2`. -/
theorem advisor_eq_firstPower {size : Nat} (h1 : 1 ≤ size) (hs : size ≤ 2 ^ 56 - 1) :
    ∃ c ≤ 39, advisor size = some (2 + c) ∧ (∀ n, 1 ≤ n → n ≤ c → GrowthBelow size n) ∧
      ¬ GrowthBelow size (c + 1) := by
  have hle : advisorThresholds.countP (fun t => decide (t < size)) ≤ 39 :=
    Nat.not_lt.1 fun h => not_growthBelow_forty hs ((lt_rowsBelow_iff size 39).1 h).2
  refine ⟨_, hle, if_neg (by omega), fun n hn hc => ?_, fun h => ?_⟩
  · obtain ⟨-, hb⟩ := (lt_rowsBelow_iff size (n - 1)).1 (by omega)
    rwa [Nat.sub_add_cancel hn] at hb
  · exact lt_irrefl _ ((lt_rowsBelow_iff size _).2 ⟨by omega, h⟩)

/-- Settles O41: the advisor's value is one more than the first power that reaches `size`. -/
theorem advisorIsSmallestLength : Obligations.AdvisorIsSmallestLength := by
  intro size h1 hs
  obtain ⟨c, hc, hadv, hbelow, hreach⟩ := advisor_eq_firstPower h1 hs
  refine ⟨2 + c, hadv, by omega, by omega, ?_, fun j hj hjc => hbelow (j - 1) (by omega) (by omega)⟩
  rw [show 2 + c - 1 = c + 1 by omega]
  exact Nat.not_lt.1 hreach

/-- The loop counts on from `k` while the power it holds is below `size`. -/
theorem advisorLoop_eq_add {size : Nat} : ∀ (d fuel k n : Nat), d ≤ fuel →
    (∀ i, n ≤ i → i < n + d → GrowthBelow size i) → ¬ GrowthBelow size (n + d) →
    advisorLoop size fuel k (53 ^ n) (20 ^ n) = k + d
  | 0, 0, _, _, _, _, _ => rfl
  | 0, _ + 1, _, _, _, _, hreach => if_neg hreach
  | d + 1, fuel + 1, k, n, hd, hbelow, hreach => by
    have hrec := advisorLoop_eq_add d fuel (k + 1) (n + 1) (by omega)
      (fun i hi hi' => hbelow i (by omega) (by omega)) (by rwa [show n + 1 + d = n + (d + 1) by omega])
    have hround : 53 ^ n < size * 20 ^ n := hbelow n le_rfl (by omega)
    rw [advisorLoop, if_pos hround, ← pow_succ', ← pow_succ', hrec]
    omega

/-- Settles O42: table and loop count the same powers of 53/20, and 39 rounds are enough. -/
theorem advisorRunsGrowthLoop : Obligations.AdvisorRunsGrowthLoop := by
  intro size h1 hs
  obtain ⟨c, hc, hadv, hbelow, hreach⟩ := advisor_eq_firstPower h1 hs
  have hloop := advisorLoop_eq_add c 40 2 1 (by omega) (fun i hi hic => hbelow i hi (by omega))
    (by rwa [Nat.add_comm 1 c])
  rw [pow_one, pow_one] at hloop
  rw [hadv, hloop]

end Sys2Proof.Machine
end

section
/-! Key input and acceptance in INIT (41_keys_advisor.md R128 to R131): what KPUSH1, KPUSH2 and KACCEPT do to an idle
core, and which of KACCEPT's checks decides. -/

namespace Sys2Proof.Machine

/-- A legal command outside FATAL has its own effect and is answered OK. -/
theorem exec_of_legal {i : Instr} {s : State} (hb : s.busy = false) (hf : s.phase ≠ .fatal)
    (hl : legalIn i s.phase = true) : exec i s = .next ((commandEffect i s).reply .done) := by
  rw [exec_eq_command, command_legal hb (fun h => absurd h hf) hl]

/-- A command of INIT. -/
theorem exec_in_init {i : Instr} {s : State} (hb : s.busy = false) (hp : s.phase = .init)
    (hl : legalIn i .init = true) : exec i s = .next ((commandEffect i s).reply .done) :=
  exec_of_legal hb (by simp [hp]) (hp ▸ hl)

/-- A command of INIT whose effect is a Fatal entry without information. -/
theorem exec_raises_in_init {i : Instr} {s : State} {c : Cause} (hb : s.busy = false) (hp : s.phase = .init)
    (hl : legalIn i .init = true) (he : commandEffect i s = raiseFatal c 0 s) :
    exec i s = .next
      { s with err := c.err, errinfo := 0, phase := .fatal, evt := true, answers := .done :: s.answers } := by
  rw [exec_in_init hb hp hl, he, raiseFatal_of_idle hb]
  rfl

/-! ### KPUSH1 and KPUSH2 -/

/-- A byte written at `a` for a key with room: one cell changes, and the key's length does not wrap. -/
theorem write_appends (m : Memory) (a : Nat) (b : Byte) {klen : Byte} (hk : klen.toNat < 255) :
    (m.write a b).read a = b ∧ (∀ x, x ≠ a → (m.write a b).read x = m.read x) ∧
      (klen + 1).toNat = klen.toNat + 1 := by
  exact ⟨by rw [Memory.read_write, if_pos rfl], fun x hx => by rw [Memory.read_write, if_neg hx], by bv_omega⟩

theorem pushKey1_of_room {s : State} (hk : s.klen1.toNat < 255) (b : Byte) :
    pushKey1 b s = { s with m1 := s.m1.write (matrixCell 0 s.klen1.toNat) b, klen1 := s.klen1 + 1 } :=
  if_neg hk.ne

theorem pushKey2_of_room {s : State} (hk : s.klen2.toNat < 255) (b : Byte) :
    pushKey2 b s = { s with m2 := s.m2.write (matrixCell 0 s.klen2.toNat) b, klen2 := s.klen2 + 1 } :=
  if_neg hk.ne

/-- Settles O11: the byte goes to the first free cell of row 0 of `M1`. -/
theorem kpush1AppendsByte : Obligations.Kpush1AppendsByte := by
  intro s b hb hp hk
  refine ⟨s.m1.write (matrixCell 0 s.klen1.toNat) b, ?_, write_appends _ _ b hk⟩
  rw [exec_in_init hb hp rfl, commandEffect, pushKey1_of_room hk]
  rfl

/-- Settles O12: the byte goes to the first free cell of row 0 of `M2`. -/
theorem kpush2AppendsByte : Obligations.Kpush2AppendsByte := by
  intro s b hb hp hk
  refine ⟨s.m2.write (matrixCell 0 s.klen2.toNat) b, ?_, write_appends _ _ b hk⟩
  rw [exec_in_init hb hp rfl, commandEffect, pushKey2_of_room hk]
  rfl

/-- Settles O13: a full key makes the effect of KPUSH1 or KPUSH2 a Fatal entry. -/
theorem fullKeyIsInvalidKey : Obligations.FullKeyIsInvalidKey := by
  intro s b hb hp
  exact ⟨fun hk => exec_raises_in_init (c := .key1Full) hb hp rfl (if_pos hk),
    fun hk => exec_raises_in_init (c := .key2Full) hb hp rfl (if_pos hk)⟩

/-! ### KACCEPT -/

theorem sizeLegal_eq_false_iff (v : Word64) :
    sizeLegal v = false ↔ ¬ (1 ≤ v.toNat ∧ v.toNat ≤ 2 ^ 56 - 1) := by
  rw [← Bool.not_eq_true, sizeLegal_iff, show 2 ^ 56 - 1 = 72057594037927935 from rfl]

theorem chunkLegal_eq_false_iff (v : Word64) :
    chunkLegal v = false ↔ ¬ (1 ≤ v.toNat ∧ v.toNat ≤ 1048576) := by
  rw [← Bool.not_eq_true, chunkLegal_iff]

theorem belowMinimum_iff (klen size : Nat) :
    belowMinimum klen size = true ↔ ∃ k, advisor size = some k ∧ klen < k := by
  unfold belowMinimum
  cases advisor size <;> simp

/-- The condition of R130 steps 5 and 6: the minimum is enforced and the key is shorter. -/
theorem enforced_short_iff (s : State) (klen : Byte) :
    (s.enforce && belowMinimum klen.toNat s.size.toNat) = true ↔
      s.enforce = true ∧ ∃ k, advisor s.size.toNat = some k ∧ klen.toNat < k := by
  rw [Bool.and_eq_true, belowMinimum_iff]

theorem acceptKeys_of_failure {s : State} {c : Cause} (h : acceptFailure s = some c) :
    acceptKeys s = raiseFatal c 0 s := by
  rw [acceptKeys, h]

theorem acceptKeys_of_pass {s : State} (h : acceptFailure s = none) :
    acceptKeys s = { s with strength := strengthOf s.klen1 s.klen2, phase := .keysAccepted } := by
  rw [acceptKeys, h]

/-- The checks of R130 steps 1 to 6 in their order, the legal ranges written out. -/
theorem acceptFailure_eq (s : State) :
    acceptFailure s =
      if ¬ (1 ≤ s.size.toNat ∧ s.size.toNat ≤ 2 ^ 56 - 1) then some .sizeIllegal
      else if ¬ (1 ≤ s.chunk.toNat ∧ s.chunk.toNat ≤ 1048576) then some .chunkIllegal
      else if s.klen1 = 0 then some .key1Empty
      else if s.klen2 = 0 then some .key2Empty
      else if s.enforce && belowMinimum s.klen1.toNat s.size.toNat then some .key1Short
      else if s.enforce && belowMinimum s.klen2.toNat s.size.toNat then some .key2Short
      else none := by
  simp only [acceptFailure, sizeLegal_eq_false_iff, chunkLegal_eq_false_iff]

/-- The strength estimate fits its register: each key has at most 255 bytes (R131). -/
theorem strengthOf_toNat (klen1 klen2 : Byte) :
    (strengthOf klen1 klen2).toNat = 6 * (klen1.toNat + klen2.toNat) := by
  rw [strengthOf, BitVec.toNat_ofNat]
  exact Nat.mod_eq_of_lt (by omega)

/-- Settles O14: none of the six checks fails. -/
theorem kacceptAcceptsLegalSession : Obligations.KacceptAcceptsLegalSession := by
  intro s hb hp hs1 hs2 hc1 hc2 hk1 hk2 hmin
  have hpass : acceptFailure s = none := by
    rw [acceptFailure_eq, if_neg (not_not_intro ⟨hs1, hs2⟩), if_neg (not_not_intro ⟨hc1, hc2⟩), if_neg hk1, if_neg hk2]
    cases he : s.enforce with
    | false => rfl
    | true =>
      obtain ⟨k, hadv, hlong1, hlong2⟩ := hmin he
      simp [belowMinimum_iff, hadv, hlong1.not_gt, hlong2.not_gt]
  refine ⟨strengthOf s.klen1 s.klen2, ?_, strengthOf_toNat _ _⟩
  rw [exec_in_init hb hp rfl, commandEffect, acceptKeys_of_pass hpass]
  rfl

/-- Settles O15: the branches of the statement are the checks in their order. -/
theorem kacceptReportsFirstFailure : Obligations.KacceptReportsFirstFailure := by
  intro s hb hp refused short
  have refuse (c : Cause) (h : acceptFailure s = some c) : refused c.err :=
    exec_raises_in_init hb hp rfl (acceptKeys_of_failure h)
  rw [acceptFailure_eq] at refuse
  split
  · next hsize => exact refuse .sizeIllegal (if_pos hsize)
  next hsize =>
  rw [if_neg hsize] at refuse
  split
  · next hchunk => exact refuse .chunkIllegal (if_pos hchunk)
  next hchunk =>
  rw [if_neg hchunk] at refuse
  split
  · next hk1 => exact refuse .key1Empty (if_pos hk1)
  next hk1 =>
  rw [if_neg hk1] at refuse
  split
  · next hk2 => exact refuse .key2Empty (if_pos hk2)
  next hk2 =>
  rw [if_neg hk2] at refuse
  refine ⟨fun h1 => refuse .key1Short (if_pos ((enforced_short_iff s _).2 h1)), fun h1 h2 => refuse .key2Short ?_⟩
  rw [if_neg (mt (enforced_short_iff s _).1 h1), if_pos ((enforced_short_iff s _).2 h2)]

end Sys2Proof.Machine
end

section
/-! The frame of the nine commands: what a write of a well-formed command to `CMD` leaves unchanged. -/

namespace Sys2Proof.Machine

/-- What command `i` keeps on its way from `s` to `t`, each part with the commands that are excepted. -/
structure CommandFrame (i : Instr) (s t : State) : Prop where
  outside : t.store = s.store ∧ t.storeLen = s.storeLen ∧ t.tape = s.tape ∧ t.draws = s.draws ∧ t.host = s.host ∧
    t.ie = s.ie ∧ t.enforce = s.enforce
  busy : i ≠ .build → i ≠ .enc → i ≠ .dec → t.busy = s.busy
  params : i ≠ .sinit → t.size = s.size ∧ t.chunk = s.chunk
  mac : i ≠ .sinit → t.mac0 = s.mac0 ∧ t.mac1 = s.mac1 ∧ t.mac2 = s.mac2 ∧ t.mac3 = s.mac3
  chunkAtHand : i ≠ .sinit → t.cbase = s.cbase ∧ t.clen = s.clen ∧ t.buf = s.buf
  strength : i ≠ .sinit → i ≠ .kaccept → t.strength = s.strength
  pass : i ≠ .sinit → i ≠ .enc → i ≠ .dec → t.dir = s.dir ∧ t.pos = s.pos ∧ t.csum = s.csum ∧ t.sstep = s.sstep
  key1 : i ≠ .sinit → (∀ b, i ≠ .kpush1 b) → t.klen1 = s.klen1 ∧ t.m1 = s.m1
  key2 : i ≠ .sinit → (∀ b, i ≠ .kpush2 b) → t.klen2 = s.klen2 ∧ t.m2 = s.m2
  error : i ≠ .sinit → t.phase ≠ .fatal → t.err = s.err ∧ t.errinfo = s.errinfo
  event : i ≠ .sinit → t.phase ≠ .fatal → i ≠ .ack → t.evt = s.evt
  phase : i ≠ .sinit → t.phase ≠ .fatal → i ≠ .kaccept → i ≠ .enc → i ≠ .dec → t.phase = s.phase

theorem CommandFrame.refl (i : Instr) (s : State) : CommandFrame i s s where
  outside := ⟨rfl, rfl, rfl, rfl, rfl, rfl, rfl⟩
  busy _ _ _ := rfl
  params _ := ⟨rfl, rfl⟩
  mac _ := ⟨rfl, rfl, rfl, rfl⟩
  chunkAtHand _ := ⟨rfl, rfl, rfl⟩
  strength _ _ := rfl
  pass _ _ _ := ⟨rfl, rfl, rfl, rfl⟩
  key1 _ _ := ⟨rfl, rfl⟩
  key2 _ _ := ⟨rfl, rfl⟩
  error _ _ := ⟨rfl, rfl⟩
  event _ _ _ := rfl
  phase _ _ _ _ _ := rfl

theorem CommandFrame.reply {i : Instr} {s t : State} (h : CommandFrame i s t) (a : Answer) :
    CommandFrame i s (t.reply a) := { h with }

/-- The Fatal entry of an idle core writes only what the frame leaves free in FATAL (60_exceptions.md R226). -/
theorem CommandFrame.raiseFatal {s : State} (hb : s.busy = false) (i : Instr) (c : Cause) (info : Word64) :
    CommandFrame i s (raiseFatal c info s) :=
  { CommandFrame.refl i s with
    busy := fun _ _ _ => hb.symm
    error := fun _ hf => absurd rfl hf
    event := fun _ hf => absurd rfl hf
    phase := fun _ hf => absurd rfl hf }

/-- SINIT writes the core's own state but `CTRL` (46_session_control.md R202). -/
theorem CommandFrame.endSession {s : State} (hb : s.busy = false) : CommandFrame .sinit s (endSession s) where
  outside := ⟨rfl, rfl, rfl, rfl, rfl, rfl, rfl⟩
  busy _ _ _ := hb.symm
  params h := absurd rfl h
  mac h := absurd rfl h
  chunkAtHand h := absurd rfl h
  strength h := absurd rfl h
  pass h := absurd rfl h
  key1 h := absurd rfl h
  key2 h := absurd rfl h
  error h := absurd rfl h
  event h := absurd rfl h
  phase h := absurd rfl h

/-- ENC and DEC write the state of the pass, `PHASE` and `BUSY` (44_stream_processor.md R171, R172). -/
theorem CommandFrame.startPass {i : Instr} (hi : ¬ (i ≠ .enc ∧ i ≠ .dec)) (d : Bool) (s : State) :
    CommandFrame i s (startPass d s) :=
  { CommandFrame.refl i s with
    busy := fun _ henc hdec => absurd ⟨henc, hdec⟩ hi
    pass := fun _ henc hdec => absurd ⟨henc, hdec⟩ hi
    error := fun _ _ => ⟨rfl, rfl⟩
    event := fun _ _ _ => rfl
    phase := fun _ _ _ henc hdec => absurd ⟨henc, hdec⟩ hi }

/-- The effect of each command, on an idle core. -/
theorem CommandFrame.commandEffect {s : State} (hb : s.busy = false) (i : Instr) :
    CommandFrame i s (commandEffect i s) := by
  cases i with
  | nop => exact .refl _ s
  | sinit => exact .endSession hb
  | kpush1 b =>
    rcases pushKey1_cases b s with ⟨-, e⟩ | ⟨-, e⟩ <;> simp only [Machine.commandEffect, e]
    · exact .raiseFatal hb _ _ _
    · exact { CommandFrame.refl (.kpush1 b) s with key1 := fun _ h => absurd rfl (h b) }
  | kpush2 b =>
    rcases pushKey2_cases b s with ⟨-, e⟩ | ⟨-, e⟩ <;> simp only [Machine.commandEffect, e]
    · exact .raiseFatal hb _ _ _
    · exact { CommandFrame.refl (.kpush2 b) s with key2 := fun _ h => absurd rfl (h b) }
  | kaccept =>
    rcases acceptKeys_cases s with ⟨c, -, e⟩ | ⟨-, e⟩ <;> simp only [Machine.commandEffect, e]
    · exact .raiseFatal hb _ _ _
    · exact { CommandFrame.refl .kaccept s with
        strength := fun _ h => absurd rfl h
        error := fun _ _ => ⟨rfl, rfl⟩
        event := fun _ _ _ => rfl
        phase := fun _ _ h => absurd rfl h }
  | build => exact { CommandFrame.refl .build s with busy := fun h => absurd rfl h }
  | enc | dec => exact .startPass (by simp) _ s
  | ack => exact { CommandFrame.refl .ack s with event := fun _ _ h => absurd rfl h }

/-- A command is refused, has its effect, or is the Fatal entry of a wrong phase; each is within its frame. -/
theorem CommandFrame.of_exec {i : Instr} {s t : State} (h : exec i s = .next t) : CommandFrame i s t := by
  rw [exec_eq_command] at h
  rcases command_cases h with ⟨-, rfl⟩ | ⟨hb, -, -, rfl⟩ | ⟨hb, -, -, rfl⟩
  · exact (CommandFrame.refl i s).reply _
  · exact (CommandFrame.commandEffect hb i).reply _
  · exact (CommandFrame.raiseFatal hb i _ _).reply _

/-- Settles O20: the frame of the command, its memories read address by address. -/
theorem commandsFrame : Obligations.CommandsFrame := by
  intro i s t h
  have hf := CommandFrame.of_exec h
  obtain ⟨hstore, hlen, htape, hdraws, hhost, hie, henforce⟩ := hf.outside
  refine ⟨fun a => by rw [hstore], hlen, htape, hdraws, hhost, hie, henforce, hf.busy, fun hi => ?_⟩
  obtain ⟨hsize, hchunk⟩ := hf.params hi
  obtain ⟨hmac0, hmac1, hmac2, hmac3⟩ := hf.mac hi
  obtain ⟨hcbase, hclen, hbuf⟩ := hf.chunkAtHand hi
  refine ⟨hsize, hchunk, hmac0, hmac1, hmac2, hmac3, hcbase, hclen, fun a => by rw [hbuf], hf.strength hi, hf.pass hi,
    fun h1 => ?_, fun h2 => ?_, fun hp => ?_⟩
  · obtain ⟨hklen, hm⟩ := hf.key1 hi h1
    exact ⟨hklen, fun a => by rw [hm]⟩
  · obtain ⟨hklen, hm⟩ := hf.key2 hi h2
    exact ⟨hklen, fun a => by rw [hm]⟩
  · obtain ⟨herr, herrinfo⟩ := hf.error hi hp
    exact ⟨herr, herrinfo, hf.event hi hp, hf.phase hi hp⟩

end Sys2Proof.Machine
end

section
/-! BuildMatrix (42_keystream_builder.md R140 to R145, R148): its rows from the rows above them, and the bound of the
accumulator. -/

namespace Sys2Proof.Machine

/-! ### The rows -/

@[simp] theorem length_buildRow (K K' prevRow : List Byte) (i : Nat) :
    (buildRow K K' prevRow i).length = K.length - i := by
  simp [buildRow]

/-- The one reduction of an element is the final one (R145). -/
theorem byteAt_buildRow (K K' prevRow : List Byte) {i j : Nat} (hj : j < K.length - i) :
    byteAt (buildRow K K' prevRow i) j = elementAcc K K' prevRow i j % 256 := by
  have hget : (buildRow K K' prevRow i)[j]? = some (BitVec.ofNat 8 (elementAcc K K' prevRow i j)) := by
    simp [buildRow, hj]
  rw [byteAt, List.getD_eq_getElem?_getD, hget, Option.getD_some, BitVec.toNat_ofNat]

@[simp] theorem length_generateRows (K K' : List Byte) (n i : Nat) (prevRow : List Byte) :
    (generateRows K K' n i prevRow).length = n := by
  induction n generalizing i prevRow with
  | zero => rfl
  | succ n ih => rw [generateRows, List.length_cons, ih]

/-- Place `k` of the rows generated from row `i` on holds row `i + k`, built from the row above it; the row above the
first is `prevRow`. -/
theorem eq_buildRow_of_generateRows {K K' : List Byte} {n i k : Nat} {prevRow row : List Byte}
    (h : (generateRows K K' n i prevRow)[k]? = some row) :
    ∃ above, (prevRow :: generateRows K K' n i prevRow)[k]? = some above ∧ row = buildRow K K' above (i + k) := by
  induction n generalizing i k prevRow with
  | zero => simp [generateRows] at h
  | succ n ih =>
    cases k with
    | zero => exact ⟨prevRow, rfl, (Option.some.inj h).symm⟩
    | succ k =>
      obtain ⟨above, habove, hrow⟩ := ih (i := i + 1) h
      exact ⟨above, habove, by rw [hrow, Nat.add_assoc, Nat.add_comm 1 k]⟩

/-- Row `i + 1` of a matrix is built from row `i` (R142). -/
theorem eq_buildRow_of_buildMatrix {K K' row : List Byte} {i : Nat} (h : (buildMatrix K K')[i + 1]? = some row) :
    ∃ above, (buildMatrix K K')[i]? = some above ∧ row = buildRow K K' above (i + 1) := by
  rw [Nat.add_comm i 1]
  exact eq_buildRow_of_generateRows h

@[simp] theorem length_generatedRows (K K' : List Byte) : (generatedRows K K').length = ceilHalf K.length :=
  length_generateRows ..

/-- Row `i` is `i` bytes shorter than the key (R140). -/
theorem length_of_buildMatrix {K K' row : List Byte} {i : Nat} (h : (buildMatrix K K')[i]? = some row) :
    row.length = K.length - i := by
  cases i with
  | zero => cases h; rfl
  | succ i =>
    obtain ⟨above, -, rfl⟩ := eq_buildRow_of_buildMatrix h
    exact length_buildRow ..

theorem length_getElem_generatedRows {K K' : List Byte} {k : Nat} (hk : k < (generatedRows K K').length) :
    (generatedRows K K')[k].length = K.length - (1 + k) := by
  rw [Nat.add_comm]
  exact length_of_buildMatrix (K' := K') (List.getElem?_eq_getElem hk)

/-- Settles O31: the key and one row for each generated one. -/
theorem matrixShape : Obligations.MatrixShape :=
  fun K K' => ⟨congrArg (· + 1) (length_generatedRows K K'), rfl, fun _ _ => length_of_buildMatrix⟩

/-- Settles O32: row `i + 1` is built from row `i`, which is `prevRow`. -/
theorem rowElements : Obligations.RowElements := by
  intro K K' prevRow row i j hprev hrow hj
  obtain ⟨above, habove, rfl⟩ := eq_buildRow_of_buildMatrix hrow
  obtain rfl : prevRow = above := Option.some.inj (hprev.symm.trans habove)
  exact byteAt_buildRow K K' prevRow hj

/-! ### The accumulator -/

theorem byteAt_le (l : List Byte) (i : Nat) : byteAt l i ≤ 255 := Nat.le_of_lt_succ (BitVec.isLt _)

theorem byteAt_mul_byteAt_le (l l' : List Byte) (i j : Nat) : byteAt l i * byteAt l' j ≤ 255 * 255 :=
  Nat.mul_le_mul (byteAt_le l i) (byteAt_le l' j)

/-- A step of the fold adds at most the product of three bytes. -/
theorem foldStep_le (K K' : List Byte) (j acc k : Nat) : foldStep K K' j acc k ≤ acc + 255 * 255 * 255 :=
  Nat.add_le_add_left (Nat.mul_le_mul (byteAt_mul_byteAt_le ..) (byteAt_le ..)) acc

theorem foldl_foldStep_le (K K' : List Byte) (j : Nat) (ks : List Nat) (acc : Nat) :
    ks.foldl (foldStep K K' j) acc ≤ acc + 255 * 255 * 255 * ks.length := by
  induction ks generalizing acc with
  | nil => simp
  | cons k ks ih =>
    have hstep := foldStep_le K K' j acc k
    have hrest := ih (foldStep K K' j acc k)
    rw [List.foldl_cons, List.length_cons]
    omega

/-- The accumulator starts with two products of two bytes (R142), and the fold takes one step for each byte of `K'`. -/
theorem elementAcc_le (K K' prevRow : List Byte) (i j : Nat) :
    elementAcc K K' prevRow i j ≤ 255 * 255 + 255 * 255 + 255 * 255 * 255 * K'.length := by
  refine (foldl_foldStep_le K K' j (List.range K'.length) _).trans ?_
  rw [List.length_range]
  exact Nat.add_le_add_right (Nat.add_le_add (byteAt_mul_byteAt_le ..) (byteAt_mul_byteAt_le ..)) _

/-- Settles O33: 4 228 380 675 is the bound at 255 steps (R148). -/
theorem accumulatorBound : Obligations.AccumulatorBound := by
  intro K K' prevRow i j hlen
  have hacc := elementAcc_le K K' prevRow i j
  omega

end Sys2Proof.Machine
end

section
/-! BUILD and the build step (42_keystream_builder.md R149, R150). -/

namespace Sys2Proof.Machine

/-! ### The rows of one matrix memory -/

/-- Row 0 is the key the matrix is built from; the rows below it are stored. -/
theorem readRow_of_buildMatrix {m : Memory} {K K' row : List Byte} {i n : Nat} (hn : n ≤ 255) (hK : K = readRow m 0 n)
    (h : (buildMatrix K K')[i]? = some row) : readRow (storeRows m 1 (generatedRows K K')) i (n - i) = row := by
  have hlen : K.length = n := hK ▸ Memory.readRange_length ..
  have hrow := length_of_buildMatrix h
  cases i with
  | zero =>
    cases h
    rw [hK]
    exact Memory.readRange_congr _ _ _ _ _ fun o ho => read_storeRows_below _ _ _ _ (by simp only [matrixCell]; omega)
  | succ i =>
    obtain ⟨hi, rfl⟩ := List.getElem?_eq_some_iff.1 (show (generatedRows K K')[i]? = some row from h)
    have hfit (r : List Byte) (hr : r ∈ generatedRows K K') : r.length ≤ 255 := by
      obtain ⟨k, hk, rfl⟩ := List.getElem_of_mem hr
      have := length_getElem_generatedRows hk
      omega
    have hread := readRow_storeRows _ m 1 i hi hfit
    rwa [hrow, hlen, Nat.add_comm 1 i] at hread

/-- No cell outside the generated rows `1 .. ⌈n/2⌉` is written. -/
theorem read_outside_generatedRows {m : Memory} {K K' : List Byte} {n a : Nat} (hK : K = readRow m 0 n)
    (h : ∀ i j, 1 ≤ i → i ≤ ceilHalf n → j < n - i → a ≠ matrixCell i j) :
    (storeRows m 1 (generatedRows K K')).read a = m.read a := by
  have hlen : K.length = n := hK ▸ Memory.readRange_length ..
  refine read_storeRows_outside _ m 1 a fun k hk o ho => h (1 + k) o (by omega) ?_ ?_
  · rw [length_generatedRows, hlen] at hk
    omega
  · rwa [length_getElem_generatedRows, hlen] at ho

/-! ### The command and the step -/

theorem coreStep_build {s : State} (hb : s.busy = true) (hp : s.phase = .keysAccepted) :
    coreStep s = .next (buildStep s) := by
  rw [coreStep, if_pos hb, hp]

/-- Settles O34: the core's turn is the build step, and each matrix memory has its own key in row 0. -/
theorem buildStepBuildsBothMatrices : Obligations.BuildStepBuildsBothMatrices := by
  intro s hh hb hp
  have hk1 : s.klen1.toNat ≤ 255 := Nat.le_of_lt_succ s.klen1.isLt
  have hk2 : s.klen2.toNat ≤ 255 := Nat.le_of_lt_succ s.klen2.isLt
  refine ⟨(buildStep s).m1, (buildStep s).m2, ?_, fun _ _ => readRow_of_buildMatrix hk1 rfl,
    fun _ _ => readRow_of_buildMatrix hk2 rfl, fun _ => read_outside_generatedRows rfl,
    fun _ => read_outside_generatedRows rfl⟩
  rw [step_core hh, coreStep_build hb hp]
  rfl

/-- Settles O16: in KEYS_ACCEPTED the command has its own effect. -/
theorem buildSetsBusy : Obligations.BuildSetsBusy :=
  fun _ hb hp => exec_of_legal hb (by simp [hp]) (by rw [hp]; rfl)

end Sys2Proof.Machine
end

section
/-! PositionalByteMixer (43_mixer_rk.md R155 to R157): the sum over rows `0 .. ⌈L/2⌉ - 1`, and the cells it reads. -/

namespace Sys2Proof.Machine

/-- A byte holds the reduced sum exactly. -/
theorem mix_toNat (t L : Nat) (m : Memory) :
    (mix t m L).toNat = ((List.range (ceilHalf L)).map (mixTerm t m L)).sum % 256 := by
  rw [mix, BitVec.toNat_ofNat]
  exact Nat.mod_mod _ _

/-- Settles O36: the sum's terms are `mixTerm`, and each matrix is paired with its own key length. -/
theorem mixIsTheRowSum : Obligations.MixIsTheRowSum := ⟨mix_toNat, fun _ _ => rfl⟩

/-- A row that takes part is not empty, so the selected column lies in it (R156). -/
theorem mixTerm_congr {t L i : Nat} {m m' : Memory} (hi : i < L)
    (h : ∀ j < L - i, m.read (matrixCell i j) = m'.read (matrixCell i j)) : mixTerm t m L i = mixTerm t m' L i :=
  congrArg BitVec.toNat (h _ (Nat.mod_lt t (Nat.sub_pos_of_lt hi)))

/-- Settles O37: each of the `⌈L/2⌉ ≤ L` terms reads inside its own row. -/
theorem mixIgnoresLastRow : Obligations.MixIgnoresLastRow := by
  intro t L m m' hL h
  refine BitVec.eq_of_toNat_eq ?_
  rw [mix_toNat, mix_toNat, List.map_congr_left]
  intro i hi
  have hstop : i < (L + 1) / 2 := List.mem_range.1 hi
  exact mixTerm_congr (by omega) fun j => h i j hstop

end Sys2Proof.Machine
end

section
/-! The RK+ transform (43_mixer_rk.md R159 to R163). Reading an exact integer as a byte commutes with the ring operations
and forgets a floored `mod 256` (40_oddtable_arith.md R117), so the definitions over the integers are expressions in
bytes, where `INV` cancels `ODD`. -/

namespace Sys2Proof.Machine

/-! ### The table indices -/

/-- Half of a byte fits the index type. -/
theorem rkIndex_toNat (b1 b2 : Byte) : (rkIndex b1 b2).toNat = (b1.toNat + b2.toNat) % 256 / 2 := by
  rw [rkIndex, BitVec.toNat_ofNat]
  omega

theorem rkMirror_toNat (rk : TableIndex) : (rkMirror rk).toNat = 127 - rk.toNat := by
  rw [rkMirror, BitVec.toNat_ofNat]
  omega

theorem oddTable_rkMirror_toNat (rk : TableIndex) :
    ((oddTable (rkMirror rk)).toNat : Int) = 2 * (127 - rk.toNat) + 1 := by
  rw [oddTable_toNat, rkMirror_toNat]
  omega

/-! ### Integers read as bytes -/

theorem ofInt_emod_256_toNat (z : Int) : ((BitVec.ofInt 8 (z % 256)).toNat : Int) = z % 256 := by
  rw [BitVec.toNat_ofInt]
  omega

theorem ofInt_emod_256 (z : Int) : BitVec.ofInt 8 (z % 256) = BitVec.ofInt 8 z := by
  refine BitVec.eq_of_toNat_eq ?_
  rw [BitVec.toNat_ofInt, BitVec.toNat_ofInt]
  omega

theorem ofInt_sub (x y : Int) : BitVec.ofInt 8 (x - y) = BitVec.ofInt 8 x - BitVec.ofInt 8 y := Int.cast_sub x y

theorem ofInt_toNat (b : Byte) : BitVec.ofInt 8 b.toNat = b := by
  rw [BitVec.ofInt_natCast, BitVec.ofNat_toNat, BitVec.setWidth_eq]

/-! ### The transform in bytes -/

theorem rkEncrypt_eq (p b1 b2 : Byte) :
    rkEncrypt p b1 b2 = (oddTable (rkIndex b1 b2) * p + b1 - b2) * oddTable (rkMirror (rkIndex b1 b2)) := by
  simp only [rkEncrypt, ofInt_emod_256, BitVec.ofInt_mul, BitVec.ofInt_add, ofInt_sub, ofInt_toNat]

theorem rkDecrypt_eq (c b1 b2 : Byte) :
    rkDecrypt c b1 b2 = (c * invTable (rkMirror (rkIndex b1 b2)) - b1 + b2) * invTable (rkIndex b1 b2) := by
  simp only [rkDecrypt, Nat.cast_mul, ofInt_emod_256, BitVec.ofInt_mul, BitVec.ofInt_add, ofInt_sub, ofInt_toNat]

/-- Settles O40: both definitions, read in bytes. -/
theorem rkEightBitDatapath : Obligations.RkEightBitDatapath :=
  fun x b1 b2 => ⟨rkEncrypt_eq x b1 b2, rkDecrypt_eq x b1 b2⟩

/-- Settles O38: `ODD` at both indices, over the integers. -/
theorem rkEncryptFormula : Obligations.RkEncryptFormula := by
  intro p b1 b2 rk temp
  rw [rkEncrypt, ofInt_emod_256_toNat, oddTable_rkMirror_toNat, oddTable_toNat, rkIndex_toNat]
  rfl

theorem mul_oddTable_mul_invTable (b : Byte) (x : TableIndex) : b * oddTable x * invTable x = b := by
  rw [mul_assoc, oddTable_mul_invTable, mul_one]

theorem mul_invTable_mul_oddTable (b : Byte) (x : TableIndex) : b * invTable x * oddTable x = b := by
  rw [mul_right_comm, mul_oddTable_mul_invTable]

/-- The proof sketch of R163: `INV[127 - RK]` and the mixing bytes give back `ODD[RK] * p`, and `INV[RK]` gives `p`. -/
theorem rkDecrypt_rkEncrypt (p b1 b2 : Byte) : rkDecrypt (rkEncrypt p b1 b2) b1 b2 = p := by
  calc rkDecrypt (rkEncrypt p b1 b2) b1 b2
      = (oddTable (rkIndex b1 b2) * p + b1 - b2 - b1 + b2) * invTable (rkIndex b1 b2) := by
        rw [rkDecrypt_eq, rkEncrypt_eq, mul_oddTable_mul_invTable]
    _ = p * oddTable (rkIndex b1 b2) * invTable (rkIndex b1 b2) := by ring
    _ = p := mul_oddTable_mul_invTable p _

/-- The converse in R163: `ODD[RK]` and the mixing bytes give back `c * INV[127 - RK]`, and `ODD[127 - RK]` gives `c`. -/
theorem rkEncrypt_rkDecrypt (c b1 b2 : Byte) : rkEncrypt (rkDecrypt c b1 b2) b1 b2 = c := by
  calc rkEncrypt (rkDecrypt c b1 b2) b1 b2
      = (c * invTable (rkMirror (rkIndex b1 b2)) - b1 + b2 + b1 - b2) * oddTable (rkMirror (rkIndex b1 b2)) := by
        rw [rkEncrypt_eq, rkDecrypt_eq, mul_comm (oddTable _), mul_invTable_mul_oddTable]
    _ = c * invTable (rkMirror (rkIndex b1 b2)) * oddTable (rkMirror (rkIndex b1 b2)) := by ring
    _ = c := mul_invTable_mul_oddTable c _

/-- Settles O39: the two directions of R163. -/
theorem rkRoundTrip : Obligations.RkRoundTrip :=
  fun p b1 b2 => ⟨rkDecrypt_rkEncrypt p b1 b2, rkEncrypt_rkDecrypt p b1 b2⟩

end Sys2Proof.Machine
end

section
/-! The stream processor (44_stream_processor.md R171 to R177): ENC and DEC, and for each streaming step what it does in
each of its outcomes. -/

namespace Sys2Proof.Machine

/-! ### ENC and DEC -/

/-- Settles O17: in MATRICES_BUILT each command has its own effect, which is to start a pass. -/
theorem encAndDecStartPass : Obligations.EncAndDecStartPass := fun _ hb hp =>
  ⟨exec_of_legal hb (by simp [hp]) (by rw [hp]; rfl), exec_of_legal hb (by simp [hp]) (by rw [hp]; rfl)⟩

/-! ### The store's answer -/

theorem storeServes_iff (a n : Nat) (s : State) :
    storeServes a n s = true ↔ nextReply s = .ok ∧ a + n ≤ s.storeLen := by
  simp [storeServes]

theorem storeServes_eq_false_iff (a n : Nat) (s : State) :
    storeServes a n s = false ↔ nextReply s = .fail ∨ s.storeLen < a + n := by
  have hreply : ¬ nextReply s = .ok ↔ nextReply s = .fail := by cases nextReply s <;> decide
  rw [← Bool.not_eq_true, storeServes_iff, not_and_or, hreply, not_le]

/-- An answer that the state lists is the one given. -/
theorem nextReply_of_listed {s : State} {r : StoreReply} (h : s.tape[0]? = some r) : nextReply s = r := by
  unfold nextReply
  cases htape : s.tape with
  | nil => simp [htape] at h
  | cons r' rest => simpa [htape] using h

/-! ### The fetch step -/

/-- The state after a served fetch that leaves `b` in the buffer. -/
def State.fetched (s : State) (b : Memory) : State :=
  { s with cbase := s.pos, clen := BitVec.ofNat 64 (chunkLength s), buf := b, sstep := .xform, tape := s.tape.tail,
           draws := s.draws + 1 }

@[simp] theorem fetched_pos (s : State) (b : Memory) : (s.fetched b).pos = s.pos := rfl
@[simp] theorem fetched_csum (s : State) (b : Memory) : (s.fetched b).csum = s.csum := rfl
@[simp] theorem fetched_dir (s : State) (b : Memory) : (s.fetched b).dir = s.dir := rfl
@[simp] theorem fetched_buf (s : State) (b : Memory) : (s.fetched b).buf = b := rfl
@[simp] theorem fetched_cbase (s : State) (b : Memory) : (s.fetched b).cbase = s.pos := rfl
@[simp] theorem fetched_store (s : State) (b : Memory) : (s.fetched b).store = s.store := rfl
@[simp] theorem fetched_storeLen (s : State) (b : Memory) : (s.fetched b).storeLen = s.storeLen := rfl
@[simp] theorem fetched_clen_toNat (s : State) (b : Memory) : (s.fetched b).clen.toNat = chunkLength s :=
  toNat_ofNat_chunkLength s

theorem fetchStep_at_end {s : State} (he : s.pos = s.size) : fetchStep s = finalizeStep s := if_pos he

theorem fetchStep_served {s : State} (hne : s.pos ≠ s.size) (h : storeServes s.pos.toNat (chunkLength s) s = true) :
    fetchStep s = s.fetched (s.buf.writeRange 0 (s.store.readRange s.pos.toNat (chunkLength s))) := by
  simpa [hne, h, State.fetched, State.asked] using fetchStep_cases s

theorem fetchStep_failed {s : State} (hne : s.pos ≠ s.size) (h : storeServes s.pos.toNat (chunkLength s) s = false) :
    fetchStep s = raiseFatal .readFailed s.pos s.asked := by
  simpa [hne, h] using fetchStep_cases s

theorem step_fetch {s : State} (hh : s.host = []) (hb : s.busy = true) (hp : s.phase = .streaming)
    (hs : s.sstep = .fetch) : step s = .next (fetchStep s) := by
  rw [step_stream hh hb hp, streamStep, hs]

/-- What the buffer reads once bytes have been written to its start. -/
theorem read_writeRange_zero (m : Memory) (bytes : List Byte) (o : Nat) :
    (m.writeRange 0 bytes).read o = if o < bytes.length then bytes.getD o 0 else m.read o := by
  rw [Memory.read_writeRange, Nat.zero_add, Nat.sub_zero]
  exact if_congr (and_iff_right (Nat.zero_le o)) rfl rfl

/-- Settles O44: below `SIZE` a served fetch copies the chunk to the start of the buffer. -/
theorem fetchReadsChunk : Obligations.FetchReadsChunk := by
  intro s hh hb hp hs hlt hreply hlen
  have hne : s.pos ≠ s.size := fun e => by simp [e] at hlt
  refine ⟨s.buf.writeRange 0 (s.store.readRange s.pos.toNat (chunkLength s)), ?_, fun o ho => ?_, fun o ho => ?_⟩
  · rw [step_fetch hh hb hp hs, fetchStep_served hne ((storeServes_iff _ _ _).2 ⟨hreply, hlen⟩)]
    rfl
  · rw [read_writeRange_zero, Memory.readRange_length, chunkLength, if_pos ho, Memory.readRange_getD _ _ _ _ ho]
  · rw [read_writeRange_zero, Memory.readRange_length, chunkLength, if_neg (not_lt.2 ho)]

/-- Settles O45: a fetch that is not served is a Fatal entry from the state that records the chunk asked for. -/
theorem fetchFailureIsFatal : Obligations.FetchFailureIsFatal := by
  intro s hh hb hp hs hne hfail
  rw [step_fetch hh hb hp hs, fetchStep_failed hne ((storeServes_eq_false_iff _ _ _).2 hfail)]
  rfl

/-! ### The transform step -/

/-- The byte put in the buffer is the pass's byte; the byte added to `CSUM` is the ciphertext byte (R175, R180). -/
theorem transformByte_eq (s : State) (a : Nat) (x : Byte) :
    transformByte s a x = (passByte s a x, if s.dir then x else passByte s a x) := by
  unfold transformByte passByte mixBytes
  cases s.dir <;> rfl

/-- A byte of a pass depends on the direction, the matrices and the key lengths only. -/
theorem passByte_congr {s t : State} (hdir : t.dir = s.dir) (hm1 : t.m1 = s.m1) (hm2 : t.m2 = s.m2)
    (hk1 : t.klen1 = s.klen1) (hk2 : t.klen2 = s.klen2) : passByte t = passByte s := by
  funext a x
  rw [passByte, passByte, hdir, hm1, hm2, hk1, hk2]

@[simp] theorem passByte_fetched (s : State) (b : Memory) : passByte (s.fetched b) = passByte s :=
  passByte_congr rfl rfl rfl rfl rfl

theorem step_xform {s : State} (hh : s.host = []) (hb : s.busy = true) (hp : s.phase = .streaming)
    (hs : s.sstep = .xform) : step s = .next (xformStep s) := by
  rw [step_stream hh hb hp, streamStep, hs]

theorem xformStep_pos_toNat {s : State} (hpos : s.pos.toNat + s.clen.toNat < 2 ^ 64) :
    (xformStep s).pos.toNat = s.pos.toNat + s.clen.toNat := by
  have h := transformBytes_pos s (s.buf.readRange 0 s.clen.toNat) s.pos s.csum
  rw [Memory.readRange_length] at h
  exact h hpos

/-- The buffer after the transform step, at every index. -/
theorem read_xformStep_buf {s : State} (hpos : s.pos.toNat + s.clen.toNat < 2 ^ 64) (o : Nat) :
    (xformStep s).buf.read o =
      if o < s.clen.toNat then passByte s (s.pos.toNat + o) (s.buf.read o) else s.buf.read o := by
  have hlen : (s.buf.readRange 0 s.clen.toNat).length = s.clen.toNat := Memory.readRange_length ..
  rw [xformStep_eq, read_writeRange_zero, transformBytes_length, hlen]
  split
  · next ho =>
    rw [transformBytes_getD _ _ _ _ _ (hlen.symm ▸ hpos) (hlen.symm ▸ ho), Memory.readRange_getD _ _ _ _ ho,
      transformByte_eq, Nat.zero_add]
  · rfl

/-- `CSUM` gains the ciphertext bytes, which stand in the buffer before the step in DEC and after it in ENC (R180). -/
theorem xformStep_csum_toNat {s : State} (hpos : s.pos.toNat + s.clen.toNat < 2 ^ 64)
    (hcsum : s.csum.toNat + 255 * s.clen.toNat < 2 ^ 64) :
    (xformStep s).csum.toNat = s.csum.toNat + ((List.range s.clen.toNat).map fun o =>
      (if s.dir then s.buf.read o else (xformStep s).buf.read o).toNat).sum := by
  have hlen : (s.buf.readRange 0 s.clen.toNat).length = s.clen.toNat := Memory.readRange_length ..
  have hgain := transformBytes_csum s (s.buf.readRange 0 s.clen.toNat) s.pos s.csum (by omega) (by omega)
  rw [checksumGain_eq_sum, hlen] at hgain
  refine hgain.trans (congrArg (s.csum.toNat + List.sum ·) (List.map_congr_left fun o ho => ?_))
  have ho : o < s.clen.toNat := List.mem_range.1 ho
  rw [transformByte_eq, Memory.readRange_getD _ _ _ _ ho, read_xformStep_buf hpos, if_pos ho, Nat.zero_add]

/-- The state after a transform step that leaves these in `BUF`, `POS` and `CSUM`. -/
def State.transformed (s : State) (b : Memory) (pos csum : Word64) : State :=
  { s with buf := b, pos := pos, csum := csum, sstep := .wback }

@[simp] theorem transformed_buf (s : State) (b : Memory) (pos csum : Word64) :
    (s.transformed b pos csum).buf = b := rfl
@[simp] theorem transformed_cbase (s : State) (b : Memory) (pos csum : Word64) :
    (s.transformed b pos csum).cbase = s.cbase := rfl
@[simp] theorem transformed_clen (s : State) (b : Memory) (pos csum : Word64) :
    (s.transformed b pos csum).clen = s.clen := rfl
@[simp] theorem transformed_store (s : State) (b : Memory) (pos csum : Word64) :
    (s.transformed b pos csum).store = s.store := rfl
@[simp] theorem transformed_storeLen (s : State) (b : Memory) (pos csum : Word64) :
    (s.transformed b pos csum).storeLen = s.storeLen := rfl

/-- Settles O46: the laws of the loop over the buffer's bytes, read off the transform step. -/
theorem transformStepTransformsChunk : Obligations.TransformStepTransformsChunk := by
  intro s hh hb hp hs hpos hcsum
  refine ⟨(xformStep s).buf, (xformStep s).pos, (xformStep s).csum, ?_, fun o ho => ?_, fun o ho => ?_,
    xformStep_pos_toNat hpos, xformStep_csum_toNat hpos hcsum⟩
  · rw [step_xform hh hb hp hs]
    rfl
  · rw [read_xformStep_buf hpos, if_pos ho]
  · rw [read_xformStep_buf hpos, if_neg (not_lt.2 ho)]

/-! ### The write-back step -/

/-- The state after a served write-back that leaves `m` in the store. -/
def State.storedBack (s : State) (m : Memory) : State :=
  { s with store := m, sstep := .fetch, tape := s.tape.tail, draws := s.draws + 1 }

theorem wbackStep_served {s : State} (h : storeServes s.cbase.toNat s.clen.toNat s = true) :
    wbackStep s = s.storedBack (s.store.writeRange s.cbase.toNat (s.buf.readRange 0 s.clen.toNat)) := by
  simpa [h, State.storedBack] using wbackStep_cases s

theorem wbackStep_failed {s : State} (h : storeServes s.cbase.toNat s.clen.toNat s = false) :
    wbackStep s = raiseFatal .writeFailed s.cbase
      { s.drawn with store := s.store.writeRange s.cbase.toNat (lostBytes s.cbase.toNat s.clen.toNat s) } := by
  simpa [h] using wbackStep_cases s

theorem step_wback {s : State} (hh : s.host = []) (hb : s.busy = true) (hp : s.phase = .streaming)
    (hs : s.sstep = .wback) : step s = .next (wbackStep s) := by
  rw [step_stream hh hb hp, streamStep, hs]

/-- Settles O47: the buffer's bytes go to the chunk's range of the store. -/
theorem writebackStoresChunk : Obligations.WritebackStoresChunk := by
  intro s hh hb hp hs hreply hlen
  refine ⟨s.store.writeRange s.cbase.toNat (s.buf.readRange 0 s.clen.toNat), ?_, fun a => ?_⟩
  · rw [step_wback hh hb hp hs, wbackStep_served ((storeServes_iff _ _ _).2 ⟨hreply, hlen⟩)]
    rfl
  · rw [Memory.read_writeRange, Memory.readRange_length]
    split
    · rw [Memory.readRange_getD _ _ _ _ (by omega), Nat.zero_add]
    · rfl

/-- Settles O48: the bytes lost lie in the chunk's range. -/
theorem writebackFailureIsFatal : Obligations.WritebackFailureIsFatal := by
  intro s hh hb hp hs hfail
  refine ⟨s.store.writeRange s.cbase.toNat (lostBytes s.cbase.toNat s.clen.toNat s), ?_, fun a ha => ?_⟩
  · rw [step_wback hh hb hp hs, wbackStep_failed ((storeServes_eq_false_iff _ _ _).2 hfail)]
    rfl
  · have hlen := lostBytes_length_le s.cbase.toNat s.clen.toNat s
    exact Memory.read_writeRange_outside _ _ _ _ (by omega)

end Sys2Proof.Machine
end

section
/-! A pass with no host move in between (44_stream_processor.md R175 to R178, R184, R185). Three core steps make one
chunk; chunks chain; a whole pass is `⌈SIZE/CHUNK⌉` chunks and the finalizing step. -/

namespace Sys2Proof.Machine

/-! ### Chains of chunks -/

/-- Between two chunk boundaries of a pass nothing is written but `POS`, `CSUM`, `BUF`, `CBASE`, `CLEN`, the store and the
store's answers. -/
def PassFrame (s t : State) : Prop :=
  t = { s with pos := t.pos, csum := t.csum, buf := t.buf, cbase := t.cbase, clen := t.clen, store := t.store,
               tape := t.tape, draws := t.draws }

/-- From `s`, `3 k` core steps with two accesses a chunk lead to `t`, and the `n` bytes from `POS` on are done: transformed
in the store, and their ciphertext added to `CSUM`. -/
structure ChunksDone (s t : State) (k n : Nat) : Prop where
  run : Sys2Proof.core.run (3 * k) s = .next t
  frame : PassFrame s t
  tape : t.tape = s.tape.drop (2 * k)
  pos : t.pos.toNat = s.pos.toNat + n
  store : ∀ a, t.store.read a =
    if s.pos.toNat ≤ a ∧ a < s.pos.toNat + n then passByte s a (s.store.read a) else s.store.read a
  csum : t.csum.toNat = s.csum.toNat + ((List.range n).map fun o => (cipherByte s (s.pos.toNat + o)).toNat).sum

/-- `run_next` for this core. -/
theorem run_step {s t : State} (h : step s = .next t) (k : Nat) :
    Sys2Proof.core.run (k + 1) s = Sys2Proof.core.run k t := run_next Sys2Proof.core h k

theorem PassFrame.trans {s t u : State} (h : PassFrame s t) (h' : PassFrame t u) : PassFrame s u := by
  unfold PassFrame at h h' ⊢
  rw [h] at h'
  exact h'

theorem PassFrame.passByte_eq {s t : State} (h : PassFrame s t) : passByte t = passByte s :=
  passByte_congr (by rw [h]) (by rw [h]) (by rw [h]) (by rw [h]) (by rw [h])

theorem PassFrame.cipherByte_eq {s t : State} (h : PassFrame s t) {a : Nat} (hr : t.store.read a = s.store.read a) :
    cipherByte t a = cipherByte s a := by
  have hdir : t.dir = s.dir := by rw [h]
  rw [cipherByte, cipherByte, hdir, hr, h.passByte_eq]

theorem ChunksDone.refl (s : State) : ChunksDone s s 0 0 where
  run := rfl
  frame := rfl
  tape := rfl
  pos := rfl
  store a := by rw [if_neg (by omega)]
  csum := rfl

theorem ChunksDone.trans {s t u : State} {j k m n : Nat} (h : ChunksDone s t j m) (h' : ChunksDone t u k n) :
    ChunksDone s u (j + k) (m + n) where
  run := by rw [Nat.mul_add, run_add _ _ _ _ _ h.run, h'.run]
  frame := h.frame.trans h'.frame
  tape := by rw [h'.tape, h.tape, List.drop_drop, Nat.mul_add]
  pos := by rw [h'.pos, h.pos, Nat.add_assoc]
  store a := by
    rw [h'.store, h.pos, h.frame.passByte_eq, h.store]
    by_cases ha : s.pos.toNat + m ≤ a ∧ a < s.pos.toNat + m + n
    · rw [if_pos ha, if_neg (by omega), if_pos (by omega)]
    · rw [if_neg ha]
      exact if_congr (by omega) rfl rfl
  csum := by
    rw [h'.csum, h.csum, List.range_add, List.map_append, List.sum_append, List.map_map, Nat.add_assoc]
    congr 3
    refine List.map_congr_left fun o _ => ?_
    rw [Function.comp_apply, h.pos, Nat.add_assoc, h.frame.cipherByte_eq]
    rw [h.store, if_neg (by omega)]

/-- A sum of bytes is at most 255 for each (10_state.md R33). -/
theorem sum_bytes_le (f : Nat → Byte) (n : Nat) : ((List.range n).map fun o => (f o).toNat).sum ≤ 255 * n := by
  have := List.sum_le_card_nsmul ((List.range n).map fun o => (f o).toNat) 255 (by
    simp only [List.mem_map]
    rintro _ ⟨o, -, rfl⟩
    exact Nat.le_of_lt_succ (f o).isLt)
  simpa [mul_comm] using this

theorem ChunksDone.csum_le {s t : State} {k n : Nat} (h : ChunksDone s t k n) :
    t.csum.toNat ≤ s.csum.toNat + 255 * n := by
  rw [h.csum]
  exact Nat.add_le_add_left (sum_bytes_le _ n) _

/-! ### One chunk -/

/-- A pass between two chunks, with no host move left. -/
structure BetweenChunks (s : State) : Prop where
  noHostMove : s.host = []
  busy : s.busy = true
  streaming : s.phase = .streaming
  atFetch : s.sstep = .fetch

theorem PassReady.betweenChunks {s : State} (h : PassReady s) : BetweenChunks s := { h with }

theorem PassFrame.betweenChunks {s t : State} (h : PassFrame s t) (hs : BetweenChunks s) : BetweenChunks t where
  noHostMove := by rw [h, hs.noHostMove]
  busy := by rw [h, hs.busy]
  streaming := by rw [h, hs.streaming]
  atFetch := by rw [h, hs.atFetch]

/-- A served fetch, the transform and a served write-back (R173, R174, R177): the three steps as one. -/
theorem BetweenChunks.chunk_done {s : State} (h : BetweenChunks s) (hlt : s.pos.toNat < s.size.toNat)
    (hlen : s.pos.toNat + chunkLength s ≤ s.storeLen) (hread : s.tape[0]? = some StoreReply.ok)
    (hwrite : s.tape[1]? = some StoreReply.ok) (hcsum : s.csum.toNat + 255 * chunkLength s < 2 ^ 64) :
    ∃ t, ChunksDone s t 1 (chunkLength s) := by
  obtain ⟨hh, hb, hp, hs⟩ := h
  have hpos : s.pos.toNat + chunkLength s < 2 ^ 64 := by
    have := s.size.isLt
    unfold chunkLength
    omega
  obtain ⟨b, (hfetch : step s = .next (s.fetched b)), hbuf, -⟩ :=
    fetchReadsChunk s hh hb hp hs hlt (nextReply_of_listed hread) hlen
  obtain ⟨b', pos, csum, (hxform : step (s.fetched b) = .next ((s.fetched b).transformed b' pos csum)), hbuf', -, hpos',
    hcsum'⟩ :=
    transformStepTransformsChunk (s.fetched b) hh hb hp rfl (by simpa using hpos) (by simpa using hcsum)
  simp only [fetched_clen_toNat, fetched_pos, fetched_csum, fetched_dir, fetched_buf,
    passByte_fetched] at hbuf' hpos' hcsum'
  obtain ⟨m, hwback, hstore⟩ :=
    writebackStoresChunk ((s.fetched b).transformed b' pos csum) hh hb hp rfl
      (nextReply_of_listed (List.getElem?_tail.trans hwrite)) (by simpa using hlen)
  simp only [transformed_cbase, transformed_clen, transformed_buf, transformed_store, fetched_cbase, fetched_clen_toNat,
    fetched_store] at hstore
  have hbytes (o : Nat) (ho : o < chunkLength s) :
      b'.read o = passByte s (s.pos.toNat + o) (s.store.read (s.pos.toNat + o)) := by
    rw [hbuf' o ho, hbuf o ho]
  refine ⟨((s.fetched b).transformed b' pos csum).storedBack m,
    { run := ?run, frame := ?frame, tape := ?tape, pos := hpos', store := fun a => ?store, csum := ?sum }⟩
  case run => exact (run_step hfetch 2).trans ((run_step hxform 1).trans (run_step hwback 0))
  case frame => simp [PassFrame, State.fetched, State.transformed, State.storedBack, hs]
  case tape =>
    change s.tape.tail.tail = s.tape.drop 2
    rw [← List.drop_one, ← List.drop_one, List.drop_drop]
  case store =>
    refine (hstore a).trans ?_
    split_ifs with ha
    · rw [hbytes _ (by omega), Nat.add_sub_cancel' ha.1]
    · rfl
  case sum =>
    refine hcsum'.trans (congrArg (s.csum.toNat + List.sum ·) (List.map_congr_left fun o ho => ?_))
    have ho : o < chunkLength s := List.mem_range.1 ho
    rw [cipherByte, hbytes o ho, ← hbuf o ho]
    rfl

/-! ### The whole pass -/

/-- The store's answer number `i` in a pass. -/
theorem PassReady.answer_ok {s : State} (h : PassReady s) {i : Nat} (hi : i < 2 * chunkCount s) :
    s.tape[i]? = some StoreReply.ok := by
  rw [← List.getElem?_take_of_lt hi, h.storeAnswersOk, List.getElem?_replicate_of_lt hi]

/-- A chunk numbered below `⌈SIZE/CHUNK⌉` starts inside the data (R176). -/
theorem chunk_start_lt {s : State} (hc : 1 ≤ s.chunk.toNat) {k : Nat} (hk : k < chunkCount s) :
    k * s.chunk.toNat < s.size.toNat := by
  have := (Nat.le_div_iff_mul_le hc).1 (Nat.succ_le_of_lt hk)
  rw [Nat.succ_mul] at this
  omega

/-- `⌈SIZE/CHUNK⌉` chunks cover the data. -/
theorem size_le_chunks {s : State} (hc : 1 ≤ s.chunk.toNat) : s.size.toNat ≤ chunkCount s * s.chunk.toNat := by
  have := Nat.lt_div_mul_add hc (a := s.size.toNat + s.chunk.toNat - 1)
  rw [chunkCount]
  omega

/-- The first `k` chunks of a pass: `CHUNK` bytes each, but for the last. -/
theorem PassReady.chunksDone {s : State} (h : PassReady s) : ∀ k, k ≤ chunkCount s →
    ∃ t, ChunksDone s t k (min (k * s.chunk.toNat) s.size.toNat)
  | 0, _ => ⟨s, by simpa using ChunksDone.refl s⟩
  | k + 1, hk => by
    obtain ⟨t, ht⟩ := h.chunksDone k (by omega)
    have hstart := chunk_start_lt ((chunkLegal_iff _).1 h.chunkOk).1 hk
    obtain ⟨-, hsize⟩ := (sizeLegal_iff _).1 h.sizeOk
    rw [min_eq_left hstart.le] at ht
    have hpos : t.pos.toNat = k * s.chunk.toNat := by simpa [h.posZero] using ht.pos
    have hcsum : t.csum.toNat ≤ 255 * (k * s.chunk.toNat) := by
      simpa [h.csumZero] using ht.csum_le
    have hchunk : chunkLength t = min s.chunk.toNat (s.size.toNat - k * s.chunk.toNat) := by
      rw [chunkLength, hpos, ht.frame]
    have hread (i : Nat) (hi : i < 2) : t.tape[i]? = some StoreReply.ok := by
      rw [ht.tape, List.getElem?_drop, h.answer_ok (by omega)]
    have hlt : t.pos.toNat < t.size.toNat := by rwa [hpos, ht.frame]
    have hlen : t.pos.toNat + chunkLength t ≤ t.storeLen := by
      have hstore : t.storeLen = s.storeLen := by rw [ht.frame]
      have := h.storeLongEnough
      omega
    obtain ⟨u, hu⟩ := (ht.frame.betweenChunks h.betweenChunks).chunk_done hlt hlen (hread 0 (by omega))
      (hread 1 (by omega)) (by omega)
    have hnext : k * s.chunk.toNat + chunkLength t = min ((k + 1) * s.chunk.toNat) s.size.toNat := by
      rw [hchunk, Nat.succ_mul]
      omega
    exact ⟨u, hnext ▸ ht.trans hu⟩

/-- After the last chunk the fetch step finalizes the pass (R173, 45_checksum_mac.md R191). -/
theorem PassReady.run_pass {s : State} (h : PassReady s) :
    ∃ t, ChunksDone s t (chunkCount s) s.size.toNat ∧
      Sys2Proof.core.run (3 * chunkCount s + 1) s = .next (finalizeStep t) := by
  obtain ⟨t, ht⟩ := h.chunksDone (chunkCount s) le_rfl
  rw [min_eq_right (size_le_chunks ((chunkLegal_iff _).1 h.chunkOk).1)] at ht
  have hend : t.pos = t.size := by
    refine BitVec.eq_of_toNat_eq ?_
    rw [ht.pos, h.posZero, ht.frame]
    exact Nat.zero_add _
  have hstep : step t = .next (finalizeStep t) := by
    obtain ⟨hh, hb, hp, hs⟩ := ht.frame.betweenChunks h.betweenChunks
    rw [step_fetch hh hb hp hs, fetchStep_at_end hend]
  exact ⟨t, ht, (run_add _ _ _ _ _ ht.run).trans (run_step hstep 0)⟩

/-- Settles O59: the chain of all chunks, from position 0, and the finalizing step. -/
theorem passTransformsWholeStore : Obligations.PassTransformsWholeStore := by
  intro s h
  obtain ⟨t, ht, hrun⟩ := h.run_pass
  refine ⟨finalizeStep t, hrun, rfl, rfl, rfl, ?pos, fun a => ?store, ?sum, ?mac⟩
  case pos =>
    refine BitVec.eq_of_toNat_eq ?_
    rw [finalizeStep_pos, ht.pos, h.posZero]
    exact Nat.zero_add _
  case store => simpa [h.posZero] using ht.store a
  case sum => simpa [h.posZero, h.csumZero] using ht.csum
  case mac =>
    simp only [finalizeStep_mac0, finalizeStep_mac1, finalizeStep_mac2, finalizeStep_mac3, finalizeStep_csum,
      BitVec.toNat_ofNat]
    omega

/-! ### A DEC pass over what an ENC pass left -/

/-- R184: under the same matrices and key lengths the byte transforms of the two directions cancel. -/
theorem passByte_passByte {s u : State} (hs : s.dir = false) (hu : u.dir = true) (hm1 : u.m1 = s.m1)
    (hm2 : u.m2 = s.m2) (hk1 : u.klen1 = s.klen1) (hk2 : u.klen2 = s.klen2) (a : Nat) (x : Byte) :
    passByte u a (passByte s a x) = x := by
  simp [passByte, hs, hu, hm1, hm2, hk1, hk2, rkDecrypt_rkEncrypt]

/-- Settles O60: byte by byte the passes cancel, and the ciphertext that ENC wrote is the one that DEC reads. -/
theorem decryptionPassUndoesEncryptionPass : Obligations.DecryptionPassUndoesEncryptionPass := by
  intro s t u v hs hsdir hst hu hudir hm1 hm2 hk1 hk2 hsize hstore huv
  obtain ⟨t', hst', -, -, -, -, htstore, htsum, ht0, ht1, ht2, ht3⟩ := passTransformsWholeStore s hs
  obtain ⟨v', huv', -, -, -, -, hvstore, hvsum, hv0, hv1, hv2, hv3⟩ := passTransformsWholeStore u hu
  obtain rfl : t = t' := by injection hst.symm.trans hst'
  obtain rfl : v = v' := by injection huv.symm.trans huv'
  rw [hsize] at hvstore hvsum
  have hcipher (a : Nat) (ha : a < s.size.toNat) : u.store.read a = passByte s a (s.store.read a) := by
    rw [hstore a ha, htstore, if_pos ha]
  have hcsum : v.csum = t.csum := by
    refine BitVec.eq_of_toNat_eq ?_
    rw [hvsum, htsum]
    refine congrArg List.sum (List.map_congr_left fun a ha => ?_)
    simp [cipherByte, hudir, hsdir, hcipher a (List.mem_range.1 ha)]
  refine ⟨fun a ha => ?_, hcsum, ?_, ?_, ?_, ?_⟩
  · rw [hvstore, if_pos ha, hcipher a ha, passByte_passByte hsdir hudir hm1 hm2 hk1 hk2]
  · exact BitVec.eq_of_toNat_eq (by rw [hv0, ht0, hcsum])
  · exact BitVec.eq_of_toNat_eq (by rw [hv1, ht1, hcsum])
  · exact BitVec.eq_of_toNat_eq (by rw [hv2, ht2, hcsum])
  · exact BitVec.eq_of_toNat_eq (by rw [hv3, ht3, hcsum])

end Sys2Proof.Machine
end

section
/-! The checksum and the MAC (45_checksum_mac.md R190, R191, R194): what changes the four residues, and the step that
reports them. -/

namespace Sys2Proof.Machine

/-! ### The residues -/

theorem macOf_eq (c : Nat) : macOf c = (c % 233, c % 239, c % 241, c % 251) := rfl

/-- An odd modulus above 1 shares no factor with a power of two, so adding one changes the residue. -/
theorem add_two_pow_mod_ne {p : Nat} (hodd : Odd p) (hp : p ≠ 1) (c k : Nat) : (c + 2 ^ k) % p ≠ c % p := by
  intro heq
  have hdvd : p ∣ 2 ^ k := Nat.add_modEq_left_iff.1 heq
  have hcoprime : p.Coprime (2 ^ k) := hodd.coprime_two_right.pow_right k
  exact hp (hcoprime.eq_one_of_dvd hdvd)

/-- Settles O43: all four moduli are odd, so none of them divides a power of two, whatever the exponent. -/
theorem singleBitChangesEveryMac : Obligations.SingleBitChangesEveryMac := by
  intro c k _
  rw [macOf_eq, macOf_eq]
  exact ⟨add_two_pow_mod_ne (by decide) (by decide) c k, add_two_pow_mod_ne (by decide) (by decide) c k,
    add_two_pow_mod_ne (by decide) (by decide) c k, add_two_pow_mod_ne (by decide) (by decide) c k⟩

/-! ### The finalize step -/

/-- A residue of a modulus up to 256 fits a byte. -/
theorem toNat_ofNat_residue {p : Nat} (hpos : 0 < p) (hle : p ≤ 256) (c : Nat) :
    (BitVec.ofNat 8 (c % p)).toNat = c % p := by
  rw [BitVec.toNat_ofNat, Nat.mod_eq_of_lt ((Nat.mod_lt c hpos).trans_le hle)]

/-- Settles O49: at the end of the data the fetch step is the finalize step, and each residue fits its register. -/
theorem finalizeReportsMac : Obligations.FinalizeReportsMac := by
  intro s hh hb hp hs he
  have hstep : step s = .next (finalizeStep s) := by rw [step_fetch hh hb hp hs, fetchStep_at_end he]
  exact ⟨_, _, _, _, hstep, toNat_ofNat_residue (by decide) (by decide) _,
    toNat_ofNat_residue (by decide) (by decide) _, toNat_ofNat_residue (by decide) (by decide) _,
    toNat_ofNat_residue (by decide) (by decide) _⟩

end Sys2Proof.Machine
end

section
/-! Session control (46_session_control.md R200 to R203): the commands that run in every phase, and the rows of the table
of the phase transitions. -/

namespace Sys2Proof.Machine

/-! ### NOP, SINIT and ACK -/

theorem legalIn_of_runsInFatal {i : Instr} (hi : runsInFatal i = true) (p : Phase) : legalIn i p = true := by
  cases i with
  | nop | sinit | ack => rfl
  | _ => cases hi

/-- A command that runs in FATAL has its own effect in every phase of an idle core and is answered OK. -/
theorem exec_of_runsInFatal {i : Instr} {s : State} (hi : runsInFatal i = true) (hb : s.busy = false) :
    exec i s = .next ((commandEffect i s).reply .done) := by
  rw [exec_eq_command, command_legal hb (fun _ => hi) (legalIn_of_runsInFatal hi _)]

/-- Settles O8: NOP runs in every phase, and its effect is the identity. -/
theorem nopChangesNothing : Obligations.NopChangesNothing :=
  ⟨decodeOfEncode .nop, fun _ => exec_of_runsInFatal rfl⟩

/-- Settles O9: the writes of SINIT are the reset values of all the core's fields but `CTRL`. -/
theorem sinitRestoresAllButCtrl : Obligations.SinitRestoresAllButCtrl :=
  ⟨decodeOfEncode .sinit, fun _ => ⟨exec_of_runsInFatal rfl, fun hb => command_busy hb .sinit endSession⟩⟩

/-- Settles O10: ACK runs in every phase, and without the event there is no interrupt. -/
theorem ackClearsEvent : Obligations.AckClearsEvent :=
  ⟨decodeOfEncode .ack, fun s hb => ⟨exec_of_runsInFatal rfl hb, Bool.and_false s.ie⟩⟩

/-! ### The rows of the phase transitions -/

/-- What a step from `s` to `t` can do to the phase, with its cause: the rows of R200. -/
inductive PhaseRow (s t : State) : Prop where
  | kept (ht : t.phase = s.phase)
  | accepted (hp : s.phase = .init) (ht : t.phase = .keysAccepted) (hb : s.busy = false)
      (hc : nextCommand s = some .kaccept) (hchecks : ChecksPass s)
  | built (hp : s.phase = .keysAccepted) (ht : t.phase = .matricesBuilt) (hb : s.busy = true)
  | passStarted (hp : s.phase = .matricesBuilt) (ht : t.phase = .streaming) (hb : s.busy = false)
      (hc : nextCommand s = some .enc ∨ nextCommand s = some .dec)
  | finalized (hp : s.phase = .streaming) (ht : t.phase = .finalized) (hb : s.busy = true)
      (hs : s.sstep = .fetch) (he : s.pos = s.size)
  | fatalEntered (c : Cause) (hc : c ≠ .arithmeticInvariant) (hp : s.phase ≠ .fatal) (ht : t.phase = .fatal)
      (hb : t.busy = false) (hevt : t.evt = true) (herr : t.err = c.err)
  | sessionOpened (ht : t.phase = .init)
      (hcause : s.busy = false ∧ nextCommand s = some .sinit ∨ s.host.head? = some .rst)

/-- A streaming step keeps the phase, finalizes at the end of the data, or enters FATAL for a failed access. -/
theorem PhaseRow.streamStep {s : State} (hb : s.busy = true) (hp : s.phase = .streaming) :
    PhaseRow s (streamStep s.popHost) := by
  have hf : s.phase ≠ .fatal := by simp [hp]
  unfold Machine.streamStep
  split
  · next hs =>
    rcases fetchStep_cases s.popHost with ⟨he, e⟩ | ⟨-, -, e⟩ | ⟨-, -, e⟩ <;> rw [e]
    · exact .finalized hp rfl hb hs he
    · exact .kept rfl
    · exact .fatalEntered .readFailed nofun hf rfl rfl rfl rfl
  · exact .kept rfl
  · rcases wbackStep_cases s.popHost with ⟨-, e⟩ | ⟨-, e⟩ <;> rw [e]
    · exact .kept rfl
    · exact .fatalEntered .writeFailed nofun hf rfl rfl rfl rfl

/-- A legal command of an idle core changes the phase by its own row, by a Fatal entry, or not at all. -/
theorem PhaseRow.command {s : State} {i : Instr} (hc : nextCommand s = some i) (hb : s.busy = false)
    (hl : legalIn i s.phase = true) : PhaseRow s ((commandEffect i s.popHost).reply .done) := by
  cases i with
  | nop | build | ack => exact .kept rfl
  | sinit => exact .sessionOpened rfl (.inl ⟨hb, hc⟩)
  | kpush1 b =>
    have hp : s.phase = .init := by simpa [legalIn] using hl
    rcases pushKey1_cases b s.popHost with ⟨-, e⟩ | ⟨-, e⟩ <;> rw [commandEffect, e]
    · exact .fatalEntered .key1Full nofun (by simp [hp]) rfl rfl rfl rfl
    · exact .kept rfl
  | kpush2 b =>
    have hp : s.phase = .init := by simpa [legalIn] using hl
    rcases pushKey2_cases b s.popHost with ⟨-, e⟩ | ⟨-, e⟩ <;> rw [commandEffect, e]
    · exact .fatalEntered .key2Full nofun (by simp [hp]) rfl rfl rfl rfl
    · exact .kept rfl
  | kaccept =>
    have hp : s.phase = .init := by simpa [legalIn] using hl
    rcases acceptKeys_cases s.popHost with ⟨c, hmem, e⟩ | ⟨hchecks, e⟩ <;> rw [commandEffect, e]
    · exact .fatalEntered c (by rintro rfl; simp at hmem) (by simp [hp]) rfl rfl rfl rfl
    · exact .accepted hp rfl hb hc hchecks
  | enc => exact .passStarted (by simpa [legalIn] using hl) rfl hb (.inl hc)
  | dec => exact .passStarted (by simpa [legalIn] using hl) rfl hb (.inr hc)

/-- Every step is within one row of the table. -/
theorem step_phaseRow {s t : State} (h : step s = .next t) : PhaseRow s t := by
  cases step_event h with
  | idle | answered | writeCtrl | writeSize | writeChunk | supply => exact .kept rfl
  | build hb hp => exact .built hp rfl hb
  | stream hb hp => exact .streamStep hb hp
  | command i hc hb hl => exact .command hc hb hl
  | rejected c info hb hp hmem =>
    exact .fatalEntered c (by rintro rfl; simp at hmem) hp rfl rfl rfl rfl
  | rst hm => exact .sessionOpened rfl (.inr hm)

/-- Every cause has a code of its class, so `ERR.CODE` is not 0 once a cause is held (60_exceptions.md R221). -/
theorem errCode_ne_zero_of_cause {t : State} {c : Cause} (herr : t.err = c.err) : errCode t ≠ 0 := by
  have hcode : errCode t = c.code := by
    rw [errCode, herr]
    exact errCode_raiseFatal c 0 t
  exact hcode ▸ c.code_ne_zero

/-- With the minimum enforced, both keys have the length the advisor asks for (41_keys_advisor.md R130 steps 5, 6). -/
theorem ChecksPass.enforced_min {s : State} (h : ChecksPass s) (he : s.enforce = true) :
    ∃ k, advisor s.size.toNat = some k ∧ k ≤ s.klen1.toNat ∧ k ≤ s.klen2.toNat := by
  obtain ⟨hsize, -, -, -, hmin⟩ := h
  obtain ⟨k, hk⟩ := advisor_of_pos ((sizeLegal_iff s.size).1 hsize).1
  exact ⟨k, hk, by simpa [belowMinimum, hk] using hmin he⟩

/-- Settles O50: the rows of the table are the statement's clauses, the checks of KACCEPT written out. -/
theorem phaseTransitions : Obligations.PhaseTransitions := by
  intro s t h
  cases step_phaseRow h with
  | kept ht => exact .inl ht
  | accepted hp ht hb hc hchecks =>
    have hmin := hchecks.enforced_min
    obtain ⟨hsize, hchunk, hk1, hk2, -⟩ := hchecks
    exact .inr (.inl ⟨hp, ht, hb, hc, (sizeLegal_iff _).1 hsize, (chunkLegal_iff _).1 hchunk, hk1, hk2, hmin⟩)
  | built hp ht hb => exact .inr (.inr (.inl ⟨hp, ht, hb⟩))
  | passStarted hp ht hb hc => exact .inr (.inr (.inr (.inl ⟨hp, ht, hb, hc⟩)))
  | finalized hp ht hb hs he => exact .inr (.inr (.inr (.inr (.inl ⟨hp, ht, hb, hs, he⟩))))
  | fatalEntered c hc hp ht hb hevt herr =>
    exact .inr (.inr (.inr (.inr (.inr (.inl
      ⟨hp, ht, hb, hevt, errCode_ne_zero_of_cause herr, c, hc, herr⟩)))))
  | sessionOpened ht hcause => exact .inr (.inr (.inr (.inr (.inr (.inr ⟨ht, hcause⟩)))))

end Sys2Proof.Machine
end

section
/-! The exception (60_exceptions.md R226, R230, R231): what a Fatal entry writes, that FATAL keeps its first cause, and how
the interrupt falls. -/

namespace Sys2Proof.Machine

/-! ### The Fatal entry -/

theorem errSub_raiseFatal (c : Cause) (info : Word64) (s : State) : errSub (raiseFatal c info s) = c.sub :=
  BitVec.extractLsb'_append_eq_left

/-- The layout of `ERR`: `SUB` above the eight bits of `CODE` (10_state.md R35). -/
theorem Cause.err_toNat (c : Cause) : c.err.toNat = 256 * c.sub.toNat + c.code.toNat := toNat_append_eq_add _ _

/-- The codes are the five classes of R221. -/
theorem Cause.code_range (c : Cause) : 1 ≤ c.code.toNat ∧ c.code.toNat ≤ 5 := by cases c <;> decide

/-- Settles O21: the writes are the definition of the Fatal entry, and `ERR` is the cause's two bytes. -/
theorem fatalEntryWrites : Obligations.FatalEntryWrites := fun c info s =>
  ⟨rfl, errCode_raiseFatal c info s, errSub_raiseFatal c info s, c.err_toNat, c.code_range⟩

/-! ### The first cause -/

/-- `ERR` and `ERRINFO` are kept. -/
def SameError (s t : State) : Prop := t.err = s.err ∧ t.errinfo = s.errinfo

/-- FATAL lets NOP, SINIT and ACK through; NOP and ACK write neither register, and SINIT leaves FATAL. -/
theorem commandEffect_in_fatal {i : Instr} {s : State} (hp : s.phase = .fatal) (hl : legalIn i s.phase = true)
    (ht : (commandEffect i s).phase = .fatal) : SameError s (commandEffect i s) := by
  rw [hp] at hl
  cases i with
  | nop | ack => exact ⟨rfl, rfl⟩
  | sinit => cases ht
  | _ => cases hl

/-- Settles O52: no core step, parameter write or Fatal entry starts in FATAL, `rst` and SINIT leave it, and what is left
does not write the cause. -/
theorem firstFatalCauseKept : Obligations.FirstFatalCauseKept := by
  intro s t h hs ht
  have notFatal {p : Phase} (hp : s.phase = p) (hne : p ≠ .fatal) : SameError s t := absurd (hp ▸ hs) hne
  cases step_event h with
  | idle | answered | writeCtrl | supply => exact ⟨rfl, rfl⟩
  | build hb hp | stream hb hp | writeSize d hb hp | writeChunk d hb hp => exact notFatal hp nofun
  | command i hc hb hl => exact commandEffect_in_fatal (s := s.popHost) hs hl ht
  | rejected c info hb hp => exact absurd hs hp
  | rst => cases ht

/-! ### The interrupt -/

theorem irq_eq_true_iff (s : State) : irq s = true ↔ s.ie = true ∧ s.evt = true := Bool.and_eq_true_iff

/-- A routine step keeps `IE` and does not clear `EVT`, so the interrupt stays. -/
theorem RoutineStep.irq_stays {s t : State} (h : RoutineStep s t) (hs : irq s = true) : irq t = true := by
  obtain ⟨hie, hevt⟩ := (irq_eq_true_iff s).1 hs
  exact (irq_eq_true_iff t).2 ⟨h.ctrl.1.trans hie, h.evt hevt⟩

/-- When the interrupt falls and the event is kept, `IE` has been cleared. -/
theorem ie_eq_false_of_irq_falls {s t : State} (hs : irq s = true) (ht : irq t = false) (hevt : t.evt = s.evt) :
    t.ie = false := by
  obtain ⟨-, he⟩ := (irq_eq_true_iff s).1 hs
  simpa [irq, hevt, he] using ht

/-- Settles O54: a step that is not routine carries out one of the four causes, and a routine step keeps the interrupt. -/
theorem irqIsEnabledEvent : Obligations.IrqIsEnabledEvent := by
  intro s t h
  refine ⟨rfl, fun hs ht => ?_⟩
  rcases step_routine_or h with ⟨hm, -⟩ | ⟨hc, -, -⟩ | ⟨hc, -, -⟩ | ⟨d, ms, hm, -, rfl⟩ | hr
  · exact .inr (.inr (.inl hm))
  · exact .inr (.inl hc)
  · exact .inl hc
  · exact .inr (.inr (.inr ⟨d, ms, hm, ie_eq_false_of_irq_falls hs ht rfl⟩))
  · exact absurd ((hr.irq_stays hs).symm.trans ht) nofun

end Sys2Proof.Machine
end

section
/-! The transition of the wire `rst` (70_reset_and_hazards.md R250). -/

namespace Sys2Proof.Machine

/-- SINIT's writes and those to `CTRL` reach every field of the core, so what was in it does not matter; the store and
what stands outside the core are not written. -/
theorem hardReset_eq_reset (s : State) :
    hardReset s = { State.reset with store := s.store, storeLen := s.storeLen, host := s.host, answers := s.answers,
                                     tape := s.tape, draws := s.draws } := rfl

/-- The step that carries out `rst` asks for no phase and no value of `BUSY`. -/
theorem step_of_rst {s : State} {ms : List HostMove} (hm : s.host = .rst :: ms) :
    step s = .next (hardReset { s with host := ms }) := by
  rw [step_of_move hm, popHost_of_cons hm]; rfl

/-- Settles O30: the step is the hard reset, which gives the reset state whatever the state was. -/
theorem rstRestoresResetState : Obligations.RstRestoresResetState := by
  intro s ms hm
  rw [step_of_rst hm, hardReset_eq_reset]

end Sys2Proof.Machine
end
